-- ==== Sys2Proof/Word.lean ====
section
/-! DEFINITION. The bit-vector types of the block: the fetch word and the operand widths.
The block works on unsigned bit vectors only, with bit 15 the most significant bit of a word
(`00_scope.md` R5, R6, R7). -/

namespace Sys2Proof

/-- A 16-bit fetch word, pattern or mask: `WORD_W = 16` (R5, R41, R60). -/
abbrev Word := BitVec 16

/-- One byte of an image, the unit of the engine's memory (R30, R44). -/
abbrev Byte := BitVec 8

/-- A register index: `REG_W = 4`, so registers 0 to 15 (R5, R24). -/
abbrev Reg := BitVec 4

/-- A 4-bit immediate: `IMM4_W = 4` (R5, R67). -/
abbrev Imm4 := BitVec 4

/-- An 8-bit immediate: `IMM8_W = 8` (R5, R65). -/
abbrev Imm8 := BitVec 8

/-- A 12-bit address, the document's "slab": `ADDR_W = 12` (R5, R66). -/
abbrev Addr12 := BitVec 12

end Sys2Proof
end

