-- ==== Sys2Proof/Config.lean ====
section
/-! DEFINITION. What is fixed when the block is built: the types of which a descriptor table is made
(`00_scope.md` R9), the type of a decode's result, and the fixed and the derived parameters of R5.
The two open parameters, `TABLE` and `VF_REJECT`, are arguments of the decode and data of State; the
rows of the default table stand in `Sys2Proof/Decode.lean`.
Nothing here is a free value: the block's spec leaves no result open (a field a format does not use
is absent, R27). -/

namespace Sys2Proof

/-- The 15 operand kinds, in the order of the document's list (R9, R34). -/
inductive Kind where
  /-- `NONE`: the slot is empty (R69). -/
  | none
  /-- `REG_HI`, "register-high-nibble": bits 11..8 (R63). -/
  | regHi
  /-- `REG_LO`, "register-low-nibble": bits 7..4 (R64). -/
  | regLo
  /-- `FIXED_V0`, the keyword `V0`: register 0 without a bit of the word (R24, R68). -/
  | fixedV0
  /-- `TIMER_DELAY`, the keyword `DT` (R29, R68). -/
  | timerDelay
  /-- `TIMER_SOUND`, the keyword `ST` (R29, R68). -/
  | timerSound
  /-- `INDEX`, the keyword `I` (R29, R68). -/
  | index
  /-- `INDEX_IND`, the keyword `[I]` (R29, R68). -/
  | indexInd
  /-- `BCD`, the keyword `B` (R29, R68). -/
  | bcd
  /-- `SPRITE`, the keyword `F` (R29, R68). -/
  | sprite
  /-- `IMM4`: bits 3..0 (R67). -/
  | imm4
  /-- `IMM8`: bits 7..0 (R65). -/
  | imm8
  /-- `ADDR12`: bits 11..0 (R66). -/
  | addr12
  /-- `KEY_WAIT`, the keyword `K` (R29, R68). -/
  | keyWait
  /-- `NULL_PH`, "null-placeholder": takes no bit and fills no field (R70, D6). -/
  | nullPh
  deriving DecidableEq, Repr

/-- The operator class of an entry: "machine instruction" or "pseudo-directive" (R9). -/
inductive OpClass where
  | machine
  | pseudo
  deriving DecidableEq, Repr

/-- One row of the descriptor table, an InstructionFormat (R9, R21, R61).
The kind list has exactly three slots, unused ones `Kind.none` (R9); decode ignores `mnemonic`. -/
structure Entry where
  mnemonic : String
  pattern  : Word
  mask     : Word
  cls      : OpClass
  kind0    : Kind
  kind1    : Kind
  kind2    : Kind
  deriving DecidableEq, Repr

/-- The operand fields of a DecodedInstruction (R9, R27). A field the matched format does not use is
absent, `none`: the document's "defined sentinel" (D4). Two register fields, never merged
(`90_conflicts.md` C1). -/
structure Fields where
  x   : Option Reg    := none
  y   : Option Reg    := none
  n   : Option Imm4   := none
  kk  : Option Imm8   := none
  nnn : Option Addr12 := none
  deriving DecidableEq, Repr

/-- The result of a decode (R9, R27, R200): IllegalOpcode, with no payload (R111), or the matched
format's id, its 0-based index in the table (D3), with the operand fields. -/
inductive Result where
  | illegalOpcode
  | decoded (fmt : Nat) (fields : Fields)
  deriving DecidableEq, Repr

/-- `VF_REJECT` (R5, R109) as plain data: the pair `(i, s)` is listed when slot `s` of entry `i`
refuses register index 15. The default, all false, is the empty list. -/
abbrev VfReject := List (Nat × Nat)

/-- The descriptor table `TABLE`: an ordered list of entries, the terminal sentinel not counted
(R5, R21). -/
abbrev Table := List Entry

namespace Config

/-- `SKIP_PSEUDO`: entries of class pseudo-directive never match on decode (R5, R102, D5). -/
def skipPseudo : Bool := true

/-- `FID_W`, the width of the format-id port of a table with `n` entries: `ceil(log2(n + 1))`, which is
the number of binary digits of `n`; 6 for the default table (R5, D3). -/
def fidW (n : Nat) : Nat := if n = 0 then 0 else n.log2 + 1

/-- `VF_REJECT` by default: false for every entry and slot (R5, R109, D7). -/
def vfRejectDefault : VfReject := []

end Config
end Sys2Proof
end

