-- ==== Sys2Proof/Syntax.lean ====
section
/-! DEFINITION. The instructions of the default table: one constructor for each of the 36 rows of
`spec/opcode_table.json` (`30_encoding.md` R78), in the table's order, each with exactly the operand
fields its kind list fills (R27, R107). A keyword operand (`V0`, `DT`, `ST`, `I`, `[I]`, `B`, `F`,
`K`) takes no bit and is part of the constructor's name (R68). -/

namespace Sys2Proof

/-- An instruction of the default table. -/
inductive Instr where
  /-- entry 0, `CLS` (R130) -/
  | cls
  /-- entry 1, `RET` (R131) -/
  | ret
  /-- entry 2, `SYS addr` (R132) -/
  | sys (nnn : Addr12)
  /-- entry 3, `JP addr` (R133) -/
  | jp (nnn : Addr12)
  /-- entry 4, `CALL addr` (R134) -/
  | call (nnn : Addr12)
  /-- entry 5, `SE Vx, byte` (R140) -/
  | seByte (x : Reg) (kk : Imm8)
  /-- entry 6, `SNE Vx, byte` (R141) -/
  | sneByte (x : Reg) (kk : Imm8)
  /-- entry 7, `SE Vx, Vy` (R150) -/
  | seReg (x y : Reg)
  /-- entry 8, `LD Vx, byte` (R142) -/
  | ldByte (x : Reg) (kk : Imm8)
  /-- entry 9, `ADD Vx, byte` (R143) -/
  | addByte (x : Reg) (kk : Imm8)
  /-- entry 10, `LD Vx, Vy` (R151) -/
  | ldReg (x y : Reg)
  /-- entry 11, `OR Vx, Vy` (R152) -/
  | orReg (x y : Reg)
  /-- entry 12, `AND Vx, Vy` (R153) -/
  | andReg (x y : Reg)
  /-- entry 13, `XOR Vx, Vy` (R154) -/
  | xorReg (x y : Reg)
  /-- entry 14, `ADD Vx, Vy` (R155) -/
  | addReg (x y : Reg)
  /-- entry 15, `SUB Vx, Vy` (R156) -/
  | subReg (x y : Reg)
  /-- entry 16, `SHR Vx, Vy` (R157) -/
  | shrReg (x y : Reg)
  /-- entry 17, `SUBN Vx, Vy` (R158) -/
  | subnReg (x y : Reg)
  /-- entry 18, `SHL Vx, Vy` (R159) -/
  | shlReg (x y : Reg)
  /-- entry 19, `SNE Vx, Vy` (R160) -/
  | sneReg (x y : Reg)
  /-- entry 20, `LD I, addr` (R165) -/
  | ldI (nnn : Addr12)
  /-- entry 21, `JP V0, addr` (R135) -/
  | jpV0 (nnn : Addr12)
  /-- entry 22, `RND Vx, byte` (R144) -/
  | rnd (x : Reg) (kk : Imm8)
  /-- entry 23, `DRW Vx, Vy, nibble` (R166) -/
  | drw (x y : Reg) (n : Imm4)
  /-- entry 24, `SKP Vx` (R167) -/
  | skp (x : Reg)
  /-- entry 25, `SKNP Vx` (R168) -/
  | sknp (x : Reg)
  /-- entry 26, `LD Vx, DT` (R175) -/
  | ldVxDt (x : Reg)
  /-- entry 27, `LD Vx, K` (R176) -/
  | ldVxK (x : Reg)
  /-- entry 28, `LD DT, Vx` (R177) -/
  | ldDtVx (x : Reg)
  /-- entry 29, `LD ST, Vx` (R178) -/
  | ldStVx (x : Reg)
  /-- entry 30, `ADD I, Vx` (R179) -/
  | addIVx (x : Reg)
  /-- entry 31, `LD F, Vx` (R180) -/
  | ldFVx (x : Reg)
  /-- entry 32, `LD B, Vx` (R181) -/
  | ldBVx (x : Reg)
  /-- entry 33, `LD [I], Vx` (R182) -/
  | ldIndVx (x : Reg)
  /-- entry 34, `LD Vx, [I]` (R183) -/
  | ldVxInd (x : Reg)
  /-- entry 35, the pseudo-directive `DB byte` (R190) -/
  | db (kk : Imm8)
  deriving DecidableEq, Repr

end Sys2Proof
end

