-- ==== Sys2Proof/Decode.lean ====
section
/-! DEFINITION. The decode operation of the block (`40_decode_operation.md`) for any table: the
mask-match arbiter (R101 to R105), the operand extractor (R106 to R110), the reference encoder (R73);
then the default table (`30_encoding.md` R78), and the decoder and encoder of `Instr` over it. -/

namespace Sys2Proof

/-! ## Bit slices of a word (R6, R63 to R67) -/

/-- `w[11:8]`, the place of `REG_HI` (R63). -/
def cutX (w : Word) : Reg := w.extractLsb' 8 4

/-- `w[7:4]`, the place of `REG_LO` (R64). -/
def cutY (w : Word) : Reg := w.extractLsb' 4 4

/-- `w[3:0]`, the place of `IMM4` (R67, D2). -/
def cutN (w : Word) : Imm4 := w.extractLsb' 0 4

/-- `w[7:0]`, the place of `IMM8` (R65). -/
def cutKK (w : Word) : Imm8 := w.extractLsb' 0 8

/-- `w[11:0]`, the place of `ADDR12` (R66, D2). -/
def cutNNN (w : Word) : Addr12 := w.extractLsb' 0 12

/-- The bits of the word that a kind's field occupies (R72). -/
def Kind.fbits : Kind → Word
  | .regHi  => 0x0F00
  | .regLo  => 0x00F0
  | .imm4   => 0x000F
  | .imm8   => 0x00FF
  | .addr12 => 0x0FFF
  | .none | .fixedV0 | .timerDelay | .timerSound | .index | .indexInd | .bcd | .sprite
  | .keyWait | .nullPh => 0x0000

/-- An entry's kind list, always three slots (R9). -/
def Entry.kinds (e : Entry) : List Kind := [e.kind0, e.kind1, e.kind2]

/-- The kind in slot `s`; a slot above 2 does not exist and reads as empty. -/
def Entry.kindAt (e : Entry) : Nat → Kind
  | 0 => e.kind0
  | 1 => e.kind1
  | 2 => e.kind2
  | _ => .none

/-- Whether a kind stands in one of the entry's slots. -/
def Entry.has (e : Entry) (k : Kind) : Bool := e.kind0 == k || e.kind1 == k || e.kind2 == k

/-- All field bits of an entry (R72). -/
def Entry.fbits (e : Entry) : Word := e.kind0.fbits ||| e.kind1.fbits ||| e.kind2.fbits

/-! ## The mask-match arbiter (R101 to R105) -/

/-- The match predicate: masked word equal to pattern, all 16 bits (R101). -/
def Entry.isMatch (e : Entry) (w : Word) : Bool := (w &&& e.mask) == e.pattern

/-- An entry hits when it takes part in decode and matches (R102). `skip` is `SKIP_PSEUDO`: with it,
a pseudo-directive never hits. -/
def Entry.hit (skip : Bool) (e : Entry) (w : Word) : Bool :=
  (e.cls == .machine || !skip) && e.isMatch w

/-- Entry `i` of table `T` hits `w`; the sentinel and everything after it hit no word (R76, R103). -/
def hitAt (skip : Bool) (T : Table) (i : Nat) (w : Word) : Bool :=
  match T[i]? with
  | some e => e.hit skip w
  | none   => false

/-- Sequential arbitration from index `k` on: test one entry after the other, stop at the first hit
(R104, R105). -/
def selFrom (skip : Bool) : Table → Nat → Word → Option Nat
  | [], _, _ => none
  | e :: es, k, w => if e.hit skip w then some k else selFrom skip es (k + 1) w

/-- The winner: the lowest index that hits, or none (R104). -/
def sel (skip : Bool) (T : Table) (w : Word) : Option Nat := selFrom skip T 0 w

/-- The indices of all entries that hit, every comparison made (R105). -/
def hitIndices (skip : Bool) (T : Table) (w : Word) : List Nat :=
  (List.range T.length).filter fun i => hitAt skip T i w

/-- The parallel form: all hit bits at once, then a priority encoder with index 0 the highest
priority (R104, R105). -/
def selParallel (skip : Bool) (T : Table) (w : Word) : Option Nat := (hitIndices skip T w).min?

/-! ## The operand extractor (R106 to R109) -/

/-- Extraction for one slot: at most one field (R106). -/
def extract (k : Kind) (w : Word) : Fields :=
  match k with
  | .regHi  => { x := some (cutX w) }
  | .regLo  => { y := some (cutY w) }
  | .imm4   => { n := some (cutN w) }
  | .imm8   => { kk := some (cutKK w) }
  | .addr12 => { nnn := some (cutNNN w) }
  | .none | .fixedV0 | .timerDelay | .timerSound | .index | .indexInd | .bcd | .sprite
  | .keyWait | .nullPh => {}

/-- The fields of two slots together. -/
def Fields.merge (a b : Fields) : Fields :=
  { x := a.x.or b.x, y := a.y.or b.y, n := a.n.or b.n, kk := a.kk.or b.kk, nnn := a.nnn.or b.nnn }

/-- Extraction for an entry: the fields its three slots yield, every other one absent (R107). -/
def fieldsOf (e : Entry) (w : Word) : Fields :=
  ((extract e.kind0 w).merge (extract e.kind1 w)).merge (extract e.kind2 w)

/-- Slot `s` of entry `i` carries the `VF` restriction and the register value is 15 (R109). -/
def vfRefuses (vr : VfReject) (i s : Nat) (r : Reg) : Bool := vr.contains (i, s) && r == 15

/-- The restriction of one slot on a word: only a register slot can refuse (R109). -/
def slotRejected (vr : VfReject) (i s : Nat) (k : Kind) (w : Word) : Bool :=
  (k == .regHi && vfRefuses vr i s (cutX w)) || (k == .regLo && vfRefuses vr i s (cutY w))

/-- `vf_rejected(i, w)`: some slot of the winning entry refuses its register value (R109). -/
def vfRejected (vr : VfReject) (i : Nat) (e : Entry) (w : Word) : Bool :=
  slotRejected vr i 0 e.kind0 w || slotRejected vr i 1 e.kind1 w || slotRejected vr i 2 e.kind2 w

/-- The decode function, whole, for any table and any `VF_REJECT` (R110). The tested winner is not
replaced when it is rejected: no backtracking (R109, R205). -/
def decodeWith (skip : Bool) (T : Table) (vr : VfReject) (w : Word) : Result :=
  match sel skip T w with
  | none   => .illegalOpcode
  | some i =>
    match T[i]? with
    | none   => .illegalOpcode
    | some e => if vfRejected vr i e w then .illegalOpcode else .decoded i (fieldsOf e w)

/-! ## The reference encoder (R73) -/

/-- One field's bits, put at their place; an absent field contributes nothing. -/
def placeField {n : Nat} (present : Bool) (v : Option (BitVec n)) (sh : Nat) : Word :=
  if present then ((v.getD 0).setWidth 16) <<< sh else 0

/-- `encode(e, f)`: the pattern ORed with each operand's bits at its kind's place; a don't-care bit is
written 0 (R73, R75). -/
def encodeFields (e : Entry) (f : Fields) : Word :=
  e.pattern
    ||| placeField (e.has .regHi) f.x 8
    ||| placeField (e.has .regLo) f.y 4
    ||| placeField (e.has .imm4) f.n 0
    ||| placeField (e.has .imm8) f.kk 0
    ||| placeField (e.has .addr12) f.nnn 0

/-! ## The default table (R78) -/

/-- Entries 0 to 9 of `DEFAULT_TABLE` (R78). -/
def defaultTable0 : Table := [
  ⟨"CLS",  0x00E0, 0xFFFF, .machine, .none,   .none,  .none⟩,
  ⟨"RET",  0x00EE, 0xFFFF, .machine, .none,   .none,  .none⟩,
  ⟨"SYS",  0x0000, 0xF000, .machine, .addr12, .none,  .none⟩,
  ⟨"JP",   0x1000, 0xF000, .machine, .addr12, .none,  .none⟩,
  ⟨"CALL", 0x2000, 0xF000, .machine, .addr12, .none,  .none⟩,
  ⟨"SE",   0x3000, 0xF000, .machine, .regHi,  .imm8,  .none⟩,
  ⟨"SNE",  0x4000, 0xF000, .machine, .regHi,  .imm8,  .none⟩,
  ⟨"SE",   0x5000, 0xF00F, .machine, .regHi,  .regLo, .none⟩,
  ⟨"LD",   0x6000, 0xF000, .machine, .regHi,  .imm8,  .none⟩,
  ⟨"ADD",  0x7000, 0xF000, .machine, .regHi,  .imm8,  .none⟩]

/-- Entries 10 to 19 of `DEFAULT_TABLE` (R78). -/
def defaultTable1 : Table := [
  ⟨"LD",   0x8000, 0xF00F, .machine, .regHi, .regLo, .none⟩,
  ⟨"OR",   0x8001, 0xF00F, .machine, .regHi, .regLo, .none⟩,
  ⟨"AND",  0x8002, 0xF00F, .machine, .regHi, .regLo, .none⟩,
  ⟨"XOR",  0x8003, 0xF00F, .machine, .regHi, .regLo, .none⟩,
  ⟨"ADD",  0x8004, 0xF00F, .machine, .regHi, .regLo, .none⟩,
  ⟨"SUB",  0x8005, 0xF00F, .machine, .regHi, .regLo, .none⟩,
  ⟨"SHR",  0x8006, 0xF00F, .machine, .regHi, .regLo, .none⟩,
  ⟨"SUBN", 0x8007, 0xF00F, .machine, .regHi, .regLo, .none⟩,
  ⟨"SHL",  0x800E, 0xF00F, .machine, .regHi, .regLo, .none⟩,
  ⟨"SNE",  0x9000, 0xF00F, .machine, .regHi, .regLo, .none⟩]

/-- Entries 20 to 27 of `DEFAULT_TABLE` (R78). -/
def defaultTable2 : Table := [
  ⟨"LD",   0xA000, 0xF000, .machine, .index,   .addr12,     .none⟩,
  ⟨"JP",   0xB000, 0xF000, .machine, .fixedV0, .addr12,     .none⟩,
  ⟨"RND",  0xC000, 0xF000, .machine, .regHi,   .imm8,       .none⟩,
  ⟨"DRW",  0xD000, 0xF000, .machine, .regHi,   .regLo,      .imm4⟩,
  ⟨"SKP",  0xE09E, 0xF0FF, .machine, .regHi,   .none,       .none⟩,
  ⟨"SKNP", 0xE0A1, 0xF0FF, .machine, .regHi,   .none,       .none⟩,
  ⟨"LD",   0xF007, 0xF0FF, .machine, .regHi,   .timerDelay, .none⟩,
  ⟨"LD",   0xF00A, 0xF0FF, .machine, .regHi,   .keyWait,    .none⟩]

/-- Entries 28 to 35 of `DEFAULT_TABLE` (R78, R190). -/
def defaultTable3 : Table := [
  ⟨"LD",  0xF015, 0xF0FF, .machine, .timerDelay, .regHi,    .none⟩,
  ⟨"LD",  0xF018, 0xF0FF, .machine, .timerSound, .regHi,    .none⟩,
  ⟨"ADD", 0xF01E, 0xF0FF, .machine, .index,      .regHi,    .none⟩,
  ⟨"LD",  0xF029, 0xF0FF, .machine, .sprite,     .regHi,    .none⟩,
  ⟨"LD",  0xF033, 0xF0FF, .machine, .bcd,        .regHi,    .none⟩,
  ⟨"LD",  0xF055, 0xF0FF, .machine, .indexInd,   .regHi,    .none⟩,
  ⟨"LD",  0xF065, 0xF0FF, .machine, .regHi,      .indexInd, .none⟩,
  ⟨"DB",  0x0000, 0xFF00, .pseudo,  .imm8,       .none,     .none⟩]

/-- `DEFAULT_TABLE`: 36 entries, the two fully specified words before the family they refine (R78).
PRESUMED: but for the three facts R83 anchors in the document, the rows are the spec's own default
from general knowledge (log entry 1). -/
def defaultTable : Table := defaultTable0 ++ defaultTable1 ++ defaultTable2 ++ defaultTable3

/-! ## The instructions of the default table -/

/-- The index of an instruction's row in the default table, its format id (R27, D3). -/
def Instr.fmt : Instr → Nat
  | .cls => 0 | .ret => 1 | .sys _ => 2 | .jp _ => 3 | .call _ => 4
  | .seByte _ _ => 5 | .sneByte _ _ => 6 | .seReg _ _ => 7 | .ldByte _ _ => 8 | .addByte _ _ => 9
  | .ldReg _ _ => 10 | .orReg _ _ => 11 | .andReg _ _ => 12 | .xorReg _ _ => 13
  | .addReg _ _ => 14 | .subReg _ _ => 15 | .shrReg _ _ => 16 | .subnReg _ _ => 17
  | .shlReg _ _ => 18 | .sneReg _ _ => 19 | .ldI _ => 20 | .jpV0 _ => 21 | .rnd _ _ => 22
  | .drw _ _ _ => 23 | .skp _ => 24 | .sknp _ => 25 | .ldVxDt _ => 26 | .ldVxK _ => 27
  | .ldDtVx _ => 28 | .ldStVx _ => 29 | .addIVx _ => 30 | .ldFVx _ => 31 | .ldBVx _ => 32
  | .ldIndVx _ => 33 | .ldVxInd _ => 34 | .db _ => 35

/-- The operand fields an instruction carries (R27). -/
def Instr.fields : Instr → Fields
  | .cls | .ret => {}
  | .sys nnn | .jp nnn | .call nnn | .ldI nnn | .jpV0 nnn => { nnn := some nnn }
  | .seByte x kk | .sneByte x kk | .ldByte x kk | .addByte x kk | .rnd x kk =>
    { x := some x, kk := some kk }
  | .seReg x y | .ldReg x y | .orReg x y | .andReg x y | .xorReg x y | .addReg x y | .subReg x y
  | .shrReg x y | .subnReg x y | .shlReg x y | .sneReg x y => { x := some x, y := some y }
  | .drw x y n => { x := some x, y := some y, n := some n }
  | .skp x | .sknp x | .ldVxDt x | .ldVxK x | .ldDtVx x | .ldStVx x | .addIVx x | .ldFVx x
  | .ldBVx x | .ldIndVx x | .ldVxInd x => { x := some x }
  | .db kk => { kk := some kk }

/-- The instruction of row `i` with its operands cut from `w` (R106, R107). -/
def instrAt (i : Nat) (w : Word) : Option Instr :=
  match i with
  | 0 => some .cls
  | 1 => some .ret
  | 2 => some (.sys (cutNNN w))
  | 3 => some (.jp (cutNNN w))
  | 4 => some (.call (cutNNN w))
  | 5 => some (.seByte (cutX w) (cutKK w))
  | 6 => some (.sneByte (cutX w) (cutKK w))
  | 7 => some (.seReg (cutX w) (cutY w))
  | 8 => some (.ldByte (cutX w) (cutKK w))
  | 9 => some (.addByte (cutX w) (cutKK w))
  | 10 => some (.ldReg (cutX w) (cutY w))
  | 11 => some (.orReg (cutX w) (cutY w))
  | 12 => some (.andReg (cutX w) (cutY w))
  | 13 => some (.xorReg (cutX w) (cutY w))
  | 14 => some (.addReg (cutX w) (cutY w))
  | 15 => some (.subReg (cutX w) (cutY w))
  | 16 => some (.shrReg (cutX w) (cutY w))
  | 17 => some (.subnReg (cutX w) (cutY w))
  | 18 => some (.shlReg (cutX w) (cutY w))
  | 19 => some (.sneReg (cutX w) (cutY w))
  | 20 => some (.ldI (cutNNN w))
  | 21 => some (.jpV0 (cutNNN w))
  | 22 => some (.rnd (cutX w) (cutKK w))
  | 23 => some (.drw (cutX w) (cutY w) (cutN w))
  | 24 => some (.skp (cutX w))
  | 25 => some (.sknp (cutX w))
  | 26 => some (.ldVxDt (cutX w))
  | 27 => some (.ldVxK (cutX w))
  | 28 => some (.ldDtVx (cutX w))
  | 29 => some (.ldStVx (cutX w))
  | 30 => some (.addIVx (cutX w))
  | 31 => some (.ldFVx (cutX w))
  | 32 => some (.ldBVx (cutX w))
  | 33 => some (.ldIndVx (cutX w))
  | 34 => some (.ldVxInd (cutX w))
  | 35 => some (.db (cutKK w))
  | _ => none

/-- The arbiter and the extractor over the default table: the instruction a word stands for, or none
where no entry hits (R110, R111 first cause). The `VF` restriction is not a matter of which
instruction a word is: it is tested on the winner, where the instruction is delivered (R109). -/
def decodeWord (w : Word) : Option Instr :=
  (sel Config.skipPseudo defaultTable w).bind fun i => instrAt i w

/-- Two entries that no word tells apart: equal but for the mnemonic, which decode ignores (R9, R101). -/
def Entry.sameFormat (a b : Entry) : Bool :=
  a.pattern == b.pattern && a.mask == b.mask && a.cls == b.cls && a.kind0 == b.kind0
    && a.kind1 == b.kind1 && a.kind2 == b.kind2

/-- The instruction that entry `i` of a table, `e`, stands for on word `w`: that of row `i` of the
default table where `e` is that row, none where it is a row of another table's own. -/
def instrOfRow (i : Nat) (e : Entry) (w : Word) : Option Instr :=
  if (defaultTable[i]?).any e.sameFormat then instrAt i w else none

/-- What a word selects in a table. -/
inductive Selected where
  /-- No entry hits: the sentinel is reached (R103, R111). -/
  | noHit
  /-- The winner is the default table's row of an instruction. -/
  | instr (i : Instr)
  /-- The winner is entry `i` of another table, which is no row of `Instr`; its operand fields (R107). -/
  | other (i : Nat) (fields : Fields)
  deriving DecidableEq, Repr

/-- What `w` selects under any table: the arbiter's winner and its operands (R104, R107). -/
def selectIn (T : Table) (w : Word) : Selected :=
  match sel Config.skipPseudo T w with
  | none   => .noHit
  | some i =>
    match T[i]? with
    | none   => .noHit
    | some e =>
      match instrOfRow i e w with
      | some j => .instr j
      | none   => .other i (fieldsOf e w)

/-- Why a sequence of bytes holds no instruction. -/
inductive DecodeError where
  /-- Fewer than two bytes: the block never receives less than a whole word (R60). Safe: nothing runs. -/
  | noWholeWord
  /-- No entry hits the word (R81, R111). Safe: nothing runs. -/
  | illegalOpcode
  deriving DecidableEq, Repr

/-- A word from two bytes, the one at the lower address in bits 15..8 (R42).
PRESUMED: the byte order is the spec's choice from general knowledge (D10, log entry 3). -/
def wordOfBytes (hi lo : Byte) : Word := hi ++ lo

/-- The two bytes of a word, in the order of `wordOfBytes`. -/
def bytesOfWord (w : Word) : List Byte := [w.extractLsb' 8 8, w.extractLsb' 0 8]

/-- Decode the first instruction of a sequence of bytes: always one 16-bit word (R60); any bytes. -/
def decode : List Byte → Except DecodeError (Instr × List Byte)
  | hi :: lo :: rest =>
    match decodeWord (wordOfBytes hi lo) with
    | some i => .ok (i, rest)
    | none   => .error .illegalOpcode
  | _ => .error .noWholeWord

/-- The word of an opcode-table row's numbering: `nbits` bits of `w`, bit 0 the least significant bit
of the one word an instruction has (R60). -/
def tableWord (nbits w : Nat) : Word := BitVec.ofNat 16 (w % 2 ^ nbits)

/-- The instruction this decoder reads from the bits `w` of an opcode-table row: the word is laid out
in bytes and given to `decode`. -/
def decodeTableWord (nbits w : Nat) : Option Instr :=
  match decode (bytesOfWord (tableWord nbits w)) with
  | .ok (i, _) => some i
  | .error _   => none

/-- The word of an instruction: its row's reference encoding (R73). For `DB` it is the pattern ORed
with the byte, of which the assembler emits the low half only (R190). -/
def encode (i : Instr) : Word :=
  match defaultTable[i.fmt]? with
  | some e => encodeFields e i.fields
  | none   => 0

/-- What an instruction line puts into an image: one byte for the pseudo-directive `DB`, the low one,
and one 16-bit word for every other format (R60, R90, R190), its high byte first (R42). -/
def encodeBytes : Instr → List Byte
  | .db kk => [kk]
  | i      => bytesOfWord (encode i)

end Sys2Proof
end

