-- ==== Sys2Proof/Machine/State.lean ====
section
/-! DEFINITION. The state of the machine: the block's ports (`10_state.md` R32), the words the engine
has still to present, and the open parameters of the block and the engine as read-only data. The block has no storage element
of its own (R20): what changes here is only what stands on its input and what it drives. -/

namespace Sys2Proof.Machine

/-- The output ports of the block (R32), widths as there. A field port is a valid bit and a value.
`fmt_o` is the number on its `FID_W` bits: the width follows from the table (R5), and that the number
fits it is part of `Ports.sound`. -/
structure Ports where
  /-- `illegal_o` -/
  illegalO : Bool
  /-- `fmt_o`: the matched entry's index; `N` when illegal. -/
  fmtO     : Nat
  /-- `kind0_o` -/
  kind0O   : BitVec 4
  /-- `kind1_o` -/
  kind1O   : BitVec 4
  /-- `kind2_o` -/
  kind2O   : BitVec 4
  /-- `x_v_o` -/
  xV       : Bool
  /-- `x_o` -/
  xO       : Reg
  /-- `y_v_o` -/
  yV       : Bool
  /-- `y_o` -/
  yO       : Reg
  /-- `kk_v_o` -/
  kkV      : Bool
  /-- `kk_o` -/
  kkO      : Imm8
  /-- `n_v_o` -/
  nV       : Bool
  /-- `n_o` -/
  nO       : Imm4
  /-- `nnn_v_o` -/
  nnnV     : Bool
  /-- `nnn_o` -/
  nnnO     : Addr12
  deriving DecidableEq, Repr

/-- `ILLEGAL_RESPONSE`, the engine's open parameter (R203, D13), with the two answers the document
names, "halt-vs-skip". -/
inductive IllegalResponse where
  /-- The engine stops: a fault that is never final and never cleared (R203's recommended reading). -/
  | halt
  /-- The engine goes on and presents its next word. -/
  | goOn
  deriving DecidableEq, Repr

/-- The whole state. -/
structure State where
  /-- `word_i`: the fetch word on the block's input (R32). -/
  wordI : Word
  /-- The output ports (R32). -/
  out : Ports
  /-- The words the engine will present in the fetch cycles to come, oldest first (R47, R52). -/
  pending : List Word
  /-- `TABLE`, the ordered list of entries, fixed when the block is built (R5, R21). No step writes
  it. -/
  table : Table
  /-- `VF_REJECT`, fixed when the block is built (R5, R109). No step writes it. -/
  vfReject : VfReject
  /-- `ILLEGAL_RESPONSE`, the engine's (R203). No step writes it. -/
  illegalResponse : IllegalResponse
  deriving DecidableEq, Repr

/-- Why the machine stops. -/
inductive Fault where
  /-- Raised by `step`, never by an instruction: the block shows IllegalOpcode and the engine's
  response to it is to halt (R203). Safe: it proves nothing false of an engine that halts and makes
  claims about an engine that goes on unprovable. -/
  | illegalOpcode
  deriving DecidableEq, Repr

/-- Why an instruction has no meaning. No arm of `exec` answers so: every instruction has its
meaning. -/
inductive Refusal where
  /-- Raised by an arm of `exec` for an instruction without a meaning yet. Safe. No arm does. -/
  | notModelled (mnemonic : String)
  deriving DecidableEq, Repr

/-- The outputs at reset: the decode of the word on the input then (R35), which is `SYS 0x000`. -/
def Ports.reset : Ports :=
  { illegalO := false, fmtO := 2, kind0O := 12, kind1O := 0, kind2O := 0, xV := false, xO := 0,
    yV := false, yO := 0, kkV := false, kkO := 0, nV := false, nO := 0, nnnV := true, nnnO := 0 }

/-- The state after reset. The block has no reset value at all (R35, R231); the outputs are the decode
of the word the engine drives. DESIGN CHOICE: that word is 0 and no further word waits (log entry 7).
`TABLE` and `VF_REJECT` are their defaults, the table of R78 and all false (R5, R109), and `ILLEGAL_RESPONSE` the recommended reading (R203). -/
def State.reset : State :=
  { wordI := 0x0000, out := Ports.reset, pending := [], table := defaultTable,
    vfReject := Config.vfRejectDefault, illegalResponse := .halt }

end Sys2Proof.Machine
end

