-- ==== Sys2Proof/Machine/Flags.lean ====
section
/-! DEFINITION. One-bit values. The block has no flag and no condition code, and no decode computes
one (`10_state.md` R26): the only single bits it drives are `illegal_o` and the five valid bits
(R32, R33), which are here. -/

namespace Sys2Proof.Machine

/-- `illegal_o`: 1 exactly when the result is IllegalOpcode (R33). -/
def illegalBit : Result → Bool
  | .illegalOpcode => true
  | .decoded _ _   => false

/-- The valid bit of a field port: 1 exactly when the field is present (R33). -/
def validBit {n : Nat} (f : Option (BitVec n)) : Bool := f.isSome

end Sys2Proof.Machine
end

