-- ==== Sys2Proof/Machine/Operands.lean ====
section
/-! DEFINITION. The operand forms as the engine sees them on the ports: the kind codes
(`10_state.md` R34), the value of a field port (R32, R33), the operand fields of a result, and the
`VF` restriction on delivered operands (`40_decode_operation.md` R109). -/

namespace Sys2Proof.Machine

/-- The kind codes, in the order the document lists the kinds (R34). -/
def kindCode : Kind → BitVec 4
  | .none       => 0
  | .regHi      => 1
  | .regLo      => 2
  | .fixedV0    => 3
  | .timerDelay => 4
  | .timerSound => 5
  | .index      => 6
  | .indexInd   => 7
  | .bcd        => 8
  | .sprite     => 9
  | .imm4       => 10
  | .imm8       => 11
  | .addr12     => 12
  | .keyWait    => 13
  | .nullPh     => 14

/-- The value on a field port: the field's value, all zeros when it is absent (R32, R33). -/
def portValue {n : Nat} (f : Option (BitVec n)) : BitVec n := f.getD 0

/-- The fixed keyword of a kind, the text that names a resource of the virtual machine (R29, R68). -/
def keyword : Kind → Option String
  | .fixedV0    => some "V0"
  | .timerDelay => some "DT"
  | .timerSound => some "ST"
  | .index      => some "I"
  | .indexInd   => some "[I]"
  | .bcd        => some "B"
  | .sprite     => some "F"
  | .keyWait    => some "K"
  | .none | .regHi | .regLo | .imm4 | .imm8 | .addr12 | .nullPh => none

/-- The textual name of a register index, `V` and a hex digit, upper case (R24, R63, R64). -/
def registerName (r : Reg) : String :=
  "V" ++ (["0", "1", "2", "3", "4", "5", "6", "7", "8", "9", "A", "B", "C", "D", "E", "F"][r.toNat]?).getD ""

/-- The fields of a result; IllegalOpcode has none (R33, R111). -/
def resultFields : Result → Fields
  | .illegalOpcode => {}
  | .decoded _ f   => f

/-- The kind in slot `s` of the entry a result names; empty when the result is IllegalOpcode (R33). -/
def resultKind (T : Table) (s : Nat) : Result → Kind
  | .illegalOpcode => .none
  | .decoded i _   => match T[i]? with
    | some e => e.kindAt s
    | none   => .none

/-- The `VF` restriction of one slot, on the operand fields of the winner (R109). -/
def operandRejected (vr : VfReject) (i s : Nat) (k : Kind) (f : Fields) : Bool :=
  (k == .regHi && f.x.any (vfRefuses vr i s)) || (k == .regLo && f.y.any (vfRefuses vr i s))

/-- Some slot of entry `i` of the table refuses its register operand (R109). -/
def operandsRejected (T : Table) (vr : VfReject) (i : Nat) (f : Fields) : Bool :=
  match T[i]? with
  | some e => operandRejected vr i 0 e.kind0 f || operandRejected vr i 1 e.kind1 f
                || operandRejected vr i 2 e.kind2 f
  | none   => false

end Sys2Proof.Machine
end

