-- ==== Sys2Proof/Machine/Ops.lean ====
section
/-! DEFINITION. The shared operations: driving a result on the ports (`10_state.md` R33), the one
exceptional result (`60_exceptions.md` R200), delivering a winner (`40_decode_operation.md` R110), the
engine's side of a fetch cycle (`20_memory.md` R47, R52; `70_reset_and_hazards.md` R233), and the words
of an image (`20_memory.md` R42, R43). -/

namespace Sys2Proof.Machine

/-- The port values of a result under a table (R33). For IllegalOpcode `fmt_o` is `N`, the sentinel's
position, and all else is 0. -/
def Ports.ofResult (T : Table) (r : Result) : Ports :=
  { illegalO := illegalBit r
    fmtO := match r with
      | .illegalOpcode => T.length
      | .decoded i _   => i
    kind0O := kindCode (resultKind T 0 r)
    kind1O := kindCode (resultKind T 1 r)
    kind2O := kindCode (resultKind T 2 r)
    xV := validBit (resultFields r).x
    xO := portValue (resultFields r).x
    yV := validBit (resultFields r).y
    yO := portValue (resultFields r).y
    kkV := validBit (resultFields r).kk
    kkO := portValue (resultFields r).kk
    nV := validBit (resultFields r).n
    nO := portValue (resultFields r).n
    nnnV := validBit (resultFields r).nnn
    nnnO := portValue (resultFields r).nnn }

/-- What the block built with table `T` and `VF_REJECT` `vr` drives while `w` is on its input (R230):
the decode of R110, encoded as R33 says. -/
def blockOutputs (T : Table) (vr : VfReject) (w : Word) : Ports :=
  Ports.ofResult T (decodeWith Config.skipPseudo T vr w)

/-- The block drives a result of its table; nothing else changes. -/
def State.drive (s : State) (r : Result) : State := { s with out := Ports.ofResult s.table r }

/-- `raise IllegalOpcode`, the one exception: the result is IllegalOpcode, a value on the ports
(R8, R200). It saves no state, changes no mode and sends control nowhere (R206); there is nothing to
return from, and it is not sticky (R207). -/
def State.raiseIllegalOpcode (s : State) : State := s.drive .illegalOpcode

/-- Deliver the winning format `i` with operand fields `f`: IllegalOpcode where the `VF` restriction
fires, else the DecodedInstruction (R109, R110). -/
def deliver (i : Nat) (f : Fields) (s : State) : Host.Outcome State Fault Refusal :=
  .next (if operandsRejected s.table s.vfReject i f then s.raiseIllegalOpcode else s.drive (.decoded i f))

/-- The engine begins a fetch cycle: it presents its next word, or holds the word it has on the input
where no other waits (R52, R233). -/
def State.present (s : State) : State :=
  match s.pending with
  | []      => s
  | w :: ws => { s with wordI := w, pending := ws }

/-- The block shows IllegalOpcode and the engine's response to it is to halt (R203). -/
def State.engineHalted (s : State) : Bool := s.out.illegalO && s.illegalResponse == .halt

/-- The engine will present `ws` after the words that wait already. -/
def State.supply (s : State) (ws : List Word) : State := { s with pending := s.pending ++ ws }

/-- A fetch from an image of bytes at any byte address: the byte at the lower address is bits 15..8
(R42), and no alignment is asked for (R43). None where the image has no two bytes there.
PRESUMED: log entry 3. -/
def fetchWord (image : List Byte) (addr : Nat) : Option Word :=
  match image[addr]?, image[addr + 1]? with
  | some hi, some lo => some (wordOfBytes hi lo)
  | _, _ => none

/-- The words of an image in image order, two bytes each, an odd last byte left out (R43, R191). -/
def imageWords : List Byte → List Word
  | hi :: lo :: rest => wordOfBytes hi lo :: imageWords rest
  | _ => []

end Sys2Proof.Machine
end

