-- ==== Sys2Proof/Machine/Flow.lean ====
section
/-! DEFINITION. Formats that carry an address or nothing (`41_flow_formats.md`): CLS, RET, SYS, JP, CALL, JP V0.
The block computes no target and keeps no link register or stack (R118): it delivers `nnn`.
Each meaning is what the block does with its winner: it drives the format id, the kind codes and the
operand fields (R110, R33), or IllegalOpcode where `VF_REJECT` refuses a register field (R109). What an
execution engine then does is outside the block (`00_scope.md` R4, D18). -/

namespace Sys2Proof.Machine

/-- `CLS`, entry 0 (R130). -/
def execCls (s : State) : Host.Outcome State Fault Refusal :=
  deliver 0 {} s

/-- `RET`, entry 1 (R131). -/
def execRet (s : State) : Host.Outcome State Fault Refusal :=
  deliver 1 {} s

/-- `SYS addr`, entry 2 (R132). -/
def execSys (nnn : Addr12) (s : State) : Host.Outcome State Fault Refusal :=
  deliver 2 { nnn := some nnn } s

/-- `JP addr`, entry 3 (R133). -/
def execJp (nnn : Addr12) (s : State) : Host.Outcome State Fault Refusal :=
  deliver 3 { nnn := some nnn } s

/-- `CALL addr`, entry 4 (R134). -/
def execCall (nnn : Addr12) (s : State) : Host.Outcome State Fault Refusal :=
  deliver 4 { nnn := some nnn } s

/-- `JP V0, addr`, entry 21 (R135). The fixed register takes no field: `x` is absent. -/
def execJpV0 (nnn : Addr12) (s : State) : Host.Outcome State Fault Refusal :=
  deliver 21 { nnn := some nnn } s

end Sys2Proof.Machine
end

