-- ==== Sys2Proof/Machine/FxKeyword.lean ====
section
/-! DEFINITION. The formats of the `F` group with a keyword operand (`45_fx_keyword_formats.md`).
The keyword is visible to the engine through the format id and the kind codes only (R29, R68); `x` is
taken from bits 11..8 whichever slot the register stands in (R107).
Each meaning is what the block does with its winner: it drives the format id, the kind codes and the
operand fields (R110, R33), or IllegalOpcode where `VF_REJECT` refuses a register field (R109). What an
execution engine then does is outside the block (`00_scope.md` R4, D18). -/

namespace Sys2Proof.Machine

/-- `LD Vx, DT`, entry 26 (R175). -/
def execLdVxDt (x : Reg) (s : State) : Host.Outcome State Fault Refusal :=
  deliver 26 { x := some x } s

/-- `LD Vx, K`, entry 27 (R176). -/
def execLdVxK (x : Reg) (s : State) : Host.Outcome State Fault Refusal :=
  deliver 27 { x := some x } s

/-- `LD DT, Vx`, entry 28 (R177). -/
def execLdDtVx (x : Reg) (s : State) : Host.Outcome State Fault Refusal :=
  deliver 28 { x := some x } s

/-- `LD ST, Vx`, entry 29 (R178). -/
def execLdStVx (x : Reg) (s : State) : Host.Outcome State Fault Refusal :=
  deliver 29 { x := some x } s

/-- `ADD I, Vx`, entry 30 (R179). -/
def execAddIVx (x : Reg) (s : State) : Host.Outcome State Fault Refusal :=
  deliver 30 { x := some x } s

/-- `LD F, Vx`, entry 31 (R180). -/
def execLdFVx (x : Reg) (s : State) : Host.Outcome State Fault Refusal :=
  deliver 31 { x := some x } s

/-- `LD B, Vx`, entry 32 (R181). -/
def execLdBVx (x : Reg) (s : State) : Host.Outcome State Fault Refusal :=
  deliver 32 { x := some x } s

/-- `LD [I], Vx`, entry 33 (R182). -/
def execLdIndVx (x : Reg) (s : State) : Host.Outcome State Fault Refusal :=
  deliver 33 { x := some x } s

/-- `LD Vx, [I]`, entry 34 (R183). -/
def execLdVxInd (x : Reg) (s : State) : Host.Outcome State Fault Refusal :=
  deliver 34 { x := some x } s

end Sys2Proof.Machine
end

