-- ==== Sys2Proof/Machine/IndexDrawKey.lean ====
section
/-! DEFINITION. LD I, DRW, SKP, SKNP (`44_index_draw_key_formats.md`).
The block computes no effective address and makes no access (R119).
Each meaning is what the block does with its winner: it drives the format id, the kind codes and the
operand fields (R110, R33), or IllegalOpcode where `VF_REJECT` refuses a register field (R109). What an
execution engine then does is outside the block (`00_scope.md` R4, D18). -/

namespace Sys2Proof.Machine

/-- `LD I, addr`, entry 20 (R165). -/
def execLdI (nnn : Addr12) (s : State) : Host.Outcome State Fault Refusal :=
  deliver 20 { nnn := some nnn } s

/-- `DRW Vx, Vy, nibble`, entry 23 (R166). -/
def execDrw (x : Reg) (y : Reg) (n : Imm4) (s : State) : Host.Outcome State Fault Refusal :=
  deliver 23 { x := some x, y := some y, n := some n } s

/-- `SKP Vx`, entry 24 (R167). -/
def execSkp (x : Reg) (s : State) : Host.Outcome State Fault Refusal :=
  deliver 24 { x := some x } s

/-- `SKNP Vx`, entry 25 (R168). -/
def execSknp (x : Reg) (s : State) : Host.Outcome State Fault Refusal :=
  deliver 25 { x := some x } s

end Sys2Proof.Machine
end

