-- ==== Sys2Proof/Machine/Pseudo.lean ====
section
/-! DEFINITION. The pseudo-directive (`46_pseudo_db.md`): DB. -/

namespace Sys2Proof.Machine

/-- `DB byte`, entry 35, class `PSEUDO` (R190): "State written: none. Flags: none. Exceptions: none."
The block does nothing for it: its row never hits (R102), so no decode delivers it. Its one effect, the
byte in the image, is `encodeBytes`. -/
def execDb (_kk : Imm8) (s : State) : Host.Outcome State Fault Refusal := .next s

end Sys2Proof.Machine
end

