-- ==== Sys2Proof/Machine/RegImm.lean ====
section
/-! DEFINITION. Formats with a register and an 8-bit immediate (`42_reg_imm_formats.md`): SE, SNE, LD, ADD, RND with byte.
The block does not compute with them (R117): it delivers `x` and `kk`.
Each meaning is what the block does with its winner: it drives the format id, the kind codes and the
operand fields (R110, R33), or IllegalOpcode where `VF_REJECT` refuses a register field (R109). What an
execution engine then does is outside the block (`00_scope.md` R4, D18). -/

namespace Sys2Proof.Machine

/-- `SE Vx, byte`, entry 5 (R140). -/
def execSeByte (x : Reg) (kk : Imm8) (s : State) : Host.Outcome State Fault Refusal :=
  deliver 5 { x := some x, kk := some kk } s

/-- `SNE Vx, byte`, entry 6 (R141). -/
def execSneByte (x : Reg) (kk : Imm8) (s : State) : Host.Outcome State Fault Refusal :=
  deliver 6 { x := some x, kk := some kk } s

/-- `LD Vx, byte`, entry 8 (R142). -/
def execLdByte (x : Reg) (kk : Imm8) (s : State) : Host.Outcome State Fault Refusal :=
  deliver 8 { x := some x, kk := some kk } s

/-- `ADD Vx, byte`, entry 9 (R143). -/
def execAddByte (x : Reg) (kk : Imm8) (s : State) : Host.Outcome State Fault Refusal :=
  deliver 9 { x := some x, kk := some kk } s

/-- `RND Vx, byte`, entry 22 (R144). -/
def execRnd (x : Reg) (kk : Imm8) (s : State) : Host.Outcome State Fault Refusal :=
  deliver 22 { x := some x, kk := some kk } s

end Sys2Proof.Machine
end

