-- ==== Sys2Proof/Machine/RegReg.lean ====
section
/-! DEFINITION. Formats with two registers (`43_reg_reg_formats.md`): SE, LD, OR, AND, XOR, ADD, SUB, SHR, SUBN, SHL, SNE.
The block does not compute with them (R117): it delivers `x` and `y`.
Each meaning is what the block does with its winner: it drives the format id, the kind codes and the
operand fields (R110, R33), or IllegalOpcode where `VF_REJECT` refuses a register field (R109). What an
execution engine then does is outside the block (`00_scope.md` R4, D18). -/

namespace Sys2Proof.Machine

/-- `SE Vx, Vy`, entry 7 (R150). -/
def execSeReg (x : Reg) (y : Reg) (s : State) : Host.Outcome State Fault Refusal :=
  deliver 7 { x := some x, y := some y } s

/-- `LD Vx, Vy`, entry 10 (R151). -/
def execLdReg (x : Reg) (y : Reg) (s : State) : Host.Outcome State Fault Refusal :=
  deliver 10 { x := some x, y := some y } s

/-- `OR Vx, Vy`, entry 11 (R152). -/
def execOrReg (x : Reg) (y : Reg) (s : State) : Host.Outcome State Fault Refusal :=
  deliver 11 { x := some x, y := some y } s

/-- `AND Vx, Vy`, entry 12 (R153). -/
def execAndReg (x : Reg) (y : Reg) (s : State) : Host.Outcome State Fault Refusal :=
  deliver 12 { x := some x, y := some y } s

/-- `XOR Vx, Vy`, entry 13 (R154). -/
def execXorReg (x : Reg) (y : Reg) (s : State) : Host.Outcome State Fault Refusal :=
  deliver 13 { x := some x, y := some y } s

/-- `ADD Vx, Vy`, entry 14 (R155). -/
def execAddReg (x : Reg) (y : Reg) (s : State) : Host.Outcome State Fault Refusal :=
  deliver 14 { x := some x, y := some y } s

/-- `SUB Vx, Vy`, entry 15 (R156). -/
def execSubReg (x : Reg) (y : Reg) (s : State) : Host.Outcome State Fault Refusal :=
  deliver 15 { x := some x, y := some y } s

/-- `SHR Vx, Vy`, entry 16 (R157). -/
def execShrReg (x : Reg) (y : Reg) (s : State) : Host.Outcome State Fault Refusal :=
  deliver 16 { x := some x, y := some y } s

/-- `SUBN Vx, Vy`, entry 17 (R158). -/
def execSubnReg (x : Reg) (y : Reg) (s : State) : Host.Outcome State Fault Refusal :=
  deliver 17 { x := some x, y := some y } s

/-- `SHL Vx, Vy`, entry 18 (R159). -/
def execShlReg (x : Reg) (y : Reg) (s : State) : Host.Outcome State Fault Refusal :=
  deliver 18 { x := some x, y := some y } s

/-- `SNE Vx, Vy`, entry 19 (R160). -/
def execSneReg (x : Reg) (y : Reg) (s : State) : Host.Outcome State Fault Refusal :=
  deliver 19 { x := some x, y := some y } s

end Sys2Proof.Machine
end

