-- ==== Sys2Proof/Machine/Step.lean ====
section
/-! DEFINITION. One step of the machine: one fetch cycle, in which the engine presents a word and the
block answers (`70_reset_and_hazards.md` R230, `20_memory.md` R52). -/

namespace Sys2Proof.Machine

/-- One fetch cycle. A halted engine presents nothing more: the fault (R203). Else the next word comes
onto the input, and the block scans its table: it delivers the instruction the word selects, or the
entry where the table is not the default one and the entry no row of `Instr`, or IllegalOpcode where no
entry hits (R110). -/
def step (s : State) : Host.Outcome State Fault Refusal :=
  if s.engineHalted then .fault .illegalOpcode
  else
    match selectIn s.present.table s.present.wordI with
    | .instr i   => exec i s.present
    | .other i f => deliver i f s.present
    | .noHit     => .next s.present.raiseIllegalOpcode

/-- The state in which the engine presents the word of an opcode-table row next: it is put before the
words that wait. Nothing else changes; the fetch needs nothing else. -/
def State.withFetchWord (s : State) (nbits w : Nat) : State :=
  { s with pending := tableWord nbits w :: s.pending }

end Sys2Proof.Machine
end

