-- ==== Sys2Proof/Safety.lean ====
section
/-! DEFINITION. What counts as a sound state and a safe run of the machine, in the terms the claims
use. -/

namespace Sys2Proof.Machine

/-- The combinational reading of the block: at all times the outputs are the decode of the word on the
input (R230, R35). -/
abbrev State.combinational (s : State) : Prop := s.out = blockOutputs s.table s.vfReject s.wordI

/-- What every output of a block with `n` entries looks like, whatever the word (R27, R32 to R34): a
field port whose valid bit is 0 is all zeros, the format id fits its `FID_W` bits, code 15 is never
driven, and when `illegal_o` is 1 the format id is `N`, every kind code is 0 and every valid bit is 0,
while otherwise the format id is below `N`. -/
structure Ports.sound (n : Nat) (p : Ports) : Prop where
  x_zero    : p.xV = false → p.xO = 0
  y_zero    : p.yV = false → p.yO = 0
  kk_zero   : p.kkV = false → p.kkO = 0
  n_zero    : p.nV = false → p.nO = 0
  nnn_zero  : p.nnnV = false → p.nnnO = 0
  fmt_width : p.fmtO < 2 ^ Config.fidW n
  no_code15 : p.kind0O ≠ 15 ∧ p.kind1O ≠ 15 ∧ p.kind2O ≠ 15
  illegal   : p.illegalO = true → p.fmtO = n ∧ p.kind0O = 0 ∧ p.kind1O = 0 ∧ p.kind2O = 0
                ∧ p.xV = false ∧ p.yV = false ∧ p.kkV = false ∧ p.nV = false ∧ p.nnnV = false
  legal     : p.illegalO = false → p.fmtO < n

/-- The engine is running: it has not halted on an IllegalOpcode (R203). -/
abbrev State.running (s : State) : Prop := s.engineHalted = false

/-- Everything but the outputs is the same: the block has no storage a decode can change (R20, R200). -/
structure State.sameButOut (s t : State) : Prop where
  wordI           : t.wordI = s.wordI
  pending         : t.pending = s.pending
  table           : t.table = s.table
  vfReject        : t.vfReject = s.vfReject
  illegalResponse : t.illegalResponse = s.illegalResponse

/-- A word the block answers with a DecodedInstruction under table `T` and `vr` (R81, R111). -/
def legalWord (T : Table) (vr : VfReject) (w : Word) : Bool := !(blockOutputs T vr w).illegalO

end Sys2Proof.Machine
end

