-- ==== Sys2Proof/WellFormed.lean ====
section
/-! DEFINITION. Well-formed instructions (those a decode can deliver) and well-formed descriptor
tables (`30_encoding.md` R77, `10_state.md` R22, R23). -/

namespace Sys2Proof

/-- An instruction the decoder can deliver. Every operand fits by its type (R71). `SYS 0x0E0` and
`SYS 0x0EE` are not: their words are `CLS` and `RET`, which stand first (R74, R132). `DB` is not: a
pseudo-directive never hits (R102, R190). -/
def Instr.wellFormed : Instr → Bool
  | .sys nnn => nnn != 0x0E0 && nnn != 0x0EE
  | .db _ => false
  | .cls | .ret | .jp _ | .call _ | .seByte _ _ | .sneByte _ _ | .seReg _ _ | .ldByte _ _
  | .addByte _ _ | .ldReg _ _ | .orReg _ _ | .andReg _ _ | .xorReg _ _ | .addReg _ _ | .subReg _ _
  | .shrReg _ _ | .subnReg _ _ | .shlReg _ _ | .sneReg _ _ | .ldI _ | .jpV0 _ | .rnd _ _
  | .drw _ _ _ | .skp _ | .sknp _ | .ldVxDt _ | .ldVxK _ | .ldDtVx _ | .ldStVx _ | .addIVx _
  | .ldFVx _ | .ldBVx _ | .ldIndVx _ | .ldVxInd _ => true

/-- The entry invariant: the pattern has no 1 bit where the mask has a 0 bit (R22, R77 (a)). -/
def Entry.patternInMask (e : Entry) : Bool := (e.pattern &&& e.mask) == e.pattern

/-- No operand lies on an opcode bit (R77 (b)). -/
def Entry.fieldsOffMask (e : Entry) : Bool := (e.fbits &&& e.mask) == 0

/-- The slots' field bits are pairwise disjoint, and no kind but `NONE` occurs twice (R77 (c)). -/
def Entry.slotsDisjoint (e : Entry) : Bool :=
  (e.kind0.fbits &&& e.kind1.fbits) == 0 && (e.kind0.fbits &&& e.kind2.fbits) == 0
    && (e.kind1.fbits &&& e.kind2.fbits) == 0
    && (e.kind0 != e.kind1 || e.kind0 == .none) && (e.kind0 != e.kind2 || e.kind0 == .none)
    && (e.kind1 != e.kind2 || e.kind1 == .none)

/-- The three conditions of R77 on one entry. -/
def Entry.wellFormed (e : Entry) : Bool :=
  e.patternInMask && e.fieldsOffMask && e.slotsDisjoint

/-- Entry `i` of `T` is not fully shadowed: it hits some word that no earlier entry hits (R77 (d)). -/
def Table.reachable (T : Table) (i : Nat) : Prop :=
  ∃ w : Word, hitAt true T i w = true ∧ ∀ j < i, hitAt true T j w = false

/-- The size of the table fits the format-id port: `N >= 1` and `N + 1 <= 2^FID_W` (R77 (e)). -/
def Table.fitsPort (T : Table) (fidW : Nat) : Bool :=
  decide (1 ≤ T.length) && decide (T.length + 1 ≤ 2 ^ fidW)

/-- A well-formed table (R77), with the format-id port its length gives it (R5). -/
def Table.wellFormed (T : Table) : Prop :=
  (∀ e ∈ T, e.wellFormed = true)
    ∧ (∀ (i : Nat) (e : Entry), T[i]? = some e → e.cls = .machine → Table.reachable T i)
    ∧ T.fitsPort (Config.fidW T.length) = true

/-- `a` is a refinement of `b`: both take part in decode, `a` tests every bit `b` tests, and demands
the same value there (R23). -/
def Entry.refines (a b : Entry) : Bool :=
  a.cls == .machine && b.cls == .machine && (b.mask &&& a.mask) == b.mask
    && (a.pattern &&& b.mask) == b.pattern

/-- The ordering invariant: a refinement stands at a lower index than the entry it refines (R23). -/
def Table.ordered (T : Table) : Prop :=
  ∀ (i j : Nat) (a b : Entry), T[i]? = some a → T[j]? = some b → i ≠ j → a.refines b = true → i < j

/-- Operand fields that suit an entry: a field is present exactly when its kind is in the entry's
list; within its width it is by its type (R74). -/
def Entry.suits (e : Entry) (f : Fields) : Bool :=
  f.x.isSome == e.has .regHi && f.y.isSome == e.has .regLo && f.n.isSome == e.has .imm4
    && f.kk.isSome == e.has .imm8 && f.nnn.isSome == e.has .addr12

end Sys2Proof
end

