-- ==== Sys2Proof/Certificates/Slice0/Obligations.lean ====
section
/-! DEFINITION. The statements for the provers. Each formalises numbered rules of the spec, or follows
from the sections it cites. The port tuples below are written out from `10_state.md` R32 to R34 and the
rows of `30_encoding.md` R78, so that a statement about an instruction's result does not lean on the
model's own table or encoding of the ports. -/

namespace Sys2Proof.Expected
open Sys2Proof.Machine

/-- Outputs with nothing on them but a legal format id: layout `OP`, no operand. -/
def op (fmt : Nat) : Ports :=
  { illegalO := false, fmtO := fmt, kind0O := 0, kind1O := 0, kind2O := 0, xV := false, xO := 0,
    yV := false, yO := 0, kkV := false, kkO := 0, nV := false, nO := 0, nnnV := false, nnnO := 0 }

/-- Outputs of IllegalOpcode under the default table: `fmt_o = 36`, all else 0 (R33, R201). -/
def illegal : Ports := { op 36 with illegalO := true }

/-- Layout `NNN`: the kind codes of slots 0 and 1, and the address. -/
def nnn (fmt : Nat) (k0 k1 : BitVec 4) (a : Addr12) : Ports :=
  { op fmt with kind0O := k0, kind1O := k1, nnnV := true, nnnO := a }

/-- Layout `XKK`: kinds `REG_HI` (1) and `IMM8` (11). -/
def xkk (fmt : Nat) (x : Reg) (kk : Imm8) : Ports :=
  { op fmt with kind0O := 1, kind1O := 11, xV := true, xO := x, kkV := true, kkO := kk }

/-- Layout `XY`: kinds `REG_HI` (1) and `REG_LO` (2). -/
def xy (fmt : Nat) (x y : Reg) : Ports :=
  { op fmt with kind0O := 1, kind1O := 2, xV := true, xO := x, yV := true, yO := y }

/-- Layout `XYN`: kinds `REG_HI` (1), `REG_LO` (2), `IMM4` (10). -/
def xyn (fmt : Nat) (x y : Reg) (n : Imm4) : Ports :=
  { xy fmt x y with kind2O := 10, nV := true, nO := n }

/-- Layout `X`: the kind codes of slots 0 and 1, and the register. -/
def x (fmt : Nat) (k0 k1 : BitVec 4) (r : Reg) : Ports :=
  { op fmt with kind0O := k0, kind1O := k1, xV := true, xO := r }

/-- The register operands of an instruction with the row and the slot they stand in (R78). -/
def registerSlots : Instr → List (Nat × Nat × Reg)
  | .seByte r _ => [(5, 0, r)] | .sneByte r _ => [(6, 0, r)] | .ldByte r _ => [(8, 0, r)]
  | .addByte r _ => [(9, 0, r)] | .rnd r _ => [(22, 0, r)]
  | .seReg r q => [(7, 0, r), (7, 1, q)] | .ldReg r q => [(10, 0, r), (10, 1, q)]
  | .orReg r q => [(11, 0, r), (11, 1, q)] | .andReg r q => [(12, 0, r), (12, 1, q)]
  | .xorReg r q => [(13, 0, r), (13, 1, q)] | .addReg r q => [(14, 0, r), (14, 1, q)]
  | .subReg r q => [(15, 0, r), (15, 1, q)] | .shrReg r q => [(16, 0, r), (16, 1, q)]
  | .subnReg r q => [(17, 0, r), (17, 1, q)] | .shlReg r q => [(18, 0, r), (18, 1, q)]
  | .sneReg r q => [(19, 0, r), (19, 1, q)] | .drw r q _ => [(23, 0, r), (23, 1, q)]
  | .skp r => [(24, 0, r)] | .sknp r => [(25, 0, r)] | .ldVxDt r => [(26, 0, r)]
  | .ldVxK r => [(27, 0, r)] | .ldDtVx r => [(28, 1, r)] | .ldStVx r => [(29, 1, r)]
  | .addIVx r => [(30, 1, r)] | .ldFVx r => [(31, 1, r)] | .ldBVx r => [(32, 1, r)]
  | .ldIndVx r => [(33, 1, r)] | .ldVxInd r => [(34, 0, r)]
  | .cls | .ret | .sys _ | .jp _ | .call _ | .ldI _ | .jpV0 _ | .db _ => []

/-- `w[15:12]`. -/
def top (w : Word) : Nat := w.toNat / 4096

/-- `w[7:0]` as a number. -/
def low (w : Word) : Nat := w.toNat % 256

/-- The opcode map in prose, by bits 15..12 of the word (R79); `none` is illegal. -/
def opcodeMap (w : Word) : Option Nat :=
  match top w with
  | 0 => if w = 0x00E0 then some 0 else if w = 0x00EE then some 1 else some 2
  | 1 => some 3
  | 2 => some 4
  | 3 => some 5
  | 4 => some 6
  | 5 => if w.toNat % 16 = 0 then some 7 else none
  | 6 => some 8
  | 7 => some 9
  | 8 => match w.toNat % 16 with
    | 0 => some 10 | 1 => some 11 | 2 => some 12 | 3 => some 13 | 4 => some 14 | 5 => some 15
    | 6 => some 16 | 7 => some 17 | 14 => some 18 | _ => none
  | 9 => if w.toNat % 16 = 0 then some 19 else none
  | 10 => some 20
  | 11 => some 21
  | 12 => some 22
  | 13 => some 23
  | 14 => match low w with
    | 0x9E => some 24 | 0xA1 => some 25 | _ => none
  | 15 => match low w with
    | 0x07 => some 26 | 0x0A => some 27 | 0x15 => some 28 | 0x18 => some 29 | 0x1E => some 30
    | 0x29 => some 31 | 0x33 => some 32 | 0x55 => some 33 | 0x65 => some 34 | _ => none
  | _ => none

/-- `VF_REJECT` refuses register `r` in slot `s` of entry `i` (R109), said without the model. -/
abbrev refused (vr : VfReject) (i s : Nat) (r : Reg) : Prop := (i, s) ∈ vr ∧ r = 15

end Sys2Proof.Expected

open Sys2Proof Sys2Proof.Machine

/-! ## Decoding and stepping -/

/-- Words written out bit by bit from the spec's encodings decode to the instructions they stand for
(vectors of `95_test_vectors.md` 2.2 and 2.3, among them the document's three anchored words). -/
def Obligations.SpecWordsDecodeToTheirInstructions : Prop :=
  decodeWord 0x00E0 = some .cls ∧ decodeWord 0x00EE = some .ret ∧ decodeWord 0x02F0 = some (.sys 0x2F0)
    ∧ decodeWord 0x1000 = some (.jp 0) ∧ decodeWord 0xB2F0 = some (.jpV0 0x2F0)
    ∧ decodeWord 0x63FF = some (.ldByte 3 0xFF) ∧ decodeWord 0x3A4C = some (.seByte 10 0x4C)
    ∧ decodeWord 0x5A30 = some (.seReg 10 3) ∧ decodeWord 0x812E = some (.shlReg 1 2)
    ∧ decodeWord 0xA2F0 = some (.ldI 0x2F0) ∧ decodeWord 0xDA35 = some (.drw 10 3 5)
    ∧ decodeWord 0xE0A1 = some (.sknp 0) ∧ decodeWord 0xFA15 = some (.ldDtVx 10)
    ∧ decodeWord 0xF765 = some (.ldVxInd 7) ∧ decodeWord 0x0000 = some (.sys 0)
    ∧ decodeWord 0xFFFF = none ∧ decodeWord 0x5121 = none ∧ decodeWord 0x8128 = none

/-- A step of a running machine with the default table puts the engine's next word on the input and runs
the instruction the word decodes to; where no entry hits it shows IllegalOpcode; with no further word the
held word is decoded (the queue and holding the word are the model's reading of R233, log entry 6). Other
tables: `StepIsTheWholeDecodeFunction`. -/
def Obligations.StepRunsTheDecodedInstruction : Prop :=
  ∀ s : State, s.running → s.table = defaultTable →
    (∀ (w : Word) (ws : List Word) (i : Instr), s.pending = w :: ws → decodeWord w = some i →
        step s = exec i { s with wordI := w, pending := ws })
    ∧ (∀ (w : Word) (ws : List Word), s.pending = w :: ws → decodeWord w = none →
        step s = .next { s with wordI := w, pending := ws, out := Expected.illegal })
    ∧ (∀ i : Instr, s.pending = [] → decodeWord s.wordI = some i → step s = exec i s)
    ∧ (s.pending = [] → decodeWord s.wordI = none →
        step s = .next { s with out := Expected.illegal })

/-- The word placed for the next fetch is the one the very next step runs, and the words that waited
still wait after it (the default table; that a word is placed in front of the queue is the model's, log
entries 6 and 7). -/
def Obligations.FetchedWordIsRunByTheNextStep : Prop :=
  ∀ (s : State) (nbits w : Nat), s.running → s.table = defaultTable →
    (∀ i : Instr, decodeTableWord nbits w = some i →
        step (s.withFetchWord nbits w) = exec i { s with wordI := tableWord nbits w })
    ∧ (decodeTableWord nbits w = none → step (s.withFetchWord nbits w)
        = .next { s with wordI := tableWord nbits w, out := Expected.illegal })

/-! ## What each instruction delivers, and that it completes

An instruction of `Instr` is a row of the default table, so the block is the one built with that table
(log entry 1); what a step of a block with another table delivers is `StepIsTheWholeDecodeFunction`.
The format ids, the kind codes and the form of the ports are the spec's decisions (log entries 1, 10,
11), and that an instruction's meaning is the block's answer to it is log entry 8. -/

/-- CLS and RET: the format id alone, no operand field, nothing else changed (R130, R131). -/
def Obligations.ClsAndRetDeliverTheirFormatAlone : Prop :=
  ∀ s : State, s.table = defaultTable →
    exec .cls s = .next { s with out := Expected.op 0 }
    ∧ exec .ret s = .next { s with out := Expected.op 1 }

/-- SYS, JP, CALL, LD I and JP V0 deliver their address, whatever it is, and no register field, not
even for the fixed register; nothing else changes (R132 to R135, R165). -/
def Obligations.AddressFormatsDeliverTheAddress : Prop :=
  ∀ (s : State) (a : Addr12), s.table = defaultTable →
    exec (.sys a) s = .next { s with out := Expected.nnn 2 12 0 a }
    ∧ exec (.jp a) s = .next { s with out := Expected.nnn 3 12 0 a }
    ∧ exec (.call a) s = .next { s with out := Expected.nnn 4 12 0 a }
    ∧ exec (.ldI a) s = .next { s with out := Expected.nnn 20 6 12 a }
    ∧ exec (.jpV0 a) s = .next { s with out := Expected.nnn 21 3 12 a }

/-- SE, SNE, LD, ADD and RND with a byte deliver register and byte where `VF_REJECT` does not refuse
the register; nothing else changes (R140 to R144). -/
def Obligations.RegisterByteFormatsDeliverRegisterAndByte : Prop :=
  ∀ (s : State) (r : Reg) (k : Imm8), s.table = defaultTable →
    (¬ Expected.refused s.vfReject 5 0 r →
      exec (.seByte r k) s = .next { s with out := Expected.xkk 5 r k })
    ∧ (¬ Expected.refused s.vfReject 6 0 r →
      exec (.sneByte r k) s = .next { s with out := Expected.xkk 6 r k })
    ∧ (¬ Expected.refused s.vfReject 8 0 r →
      exec (.ldByte r k) s = .next { s with out := Expected.xkk 8 r k })
    ∧ (¬ Expected.refused s.vfReject 9 0 r →
      exec (.addByte r k) s = .next { s with out := Expected.xkk 9 r k })
    ∧ (¬ Expected.refused s.vfReject 22 0 r →
      exec (.rnd r k) s = .next { s with out := Expected.xkk 22 r k })

/-- The eleven two-register formats deliver both registers, each in its own field, where `VF_REJECT`
refuses neither; nothing else changes (R150 to R160). -/
def Obligations.RegisterRegisterFormatsDeliverBothRegisters : Prop :=
  ∀ (s : State) (r q : Reg), s.table = defaultTable →
    let ok := fun i : Nat =>
      ¬ Expected.refused s.vfReject i 0 r ∧ ¬ Expected.refused s.vfReject i 1 q
    (ok 7 → exec (.seReg r q) s = .next { s with out := Expected.xy 7 r q })
    ∧ (ok 10 → exec (.ldReg r q) s = .next { s with out := Expected.xy 10 r q })
    ∧ (ok 11 → exec (.orReg r q) s = .next { s with out := Expected.xy 11 r q })
    ∧ (ok 12 → exec (.andReg r q) s = .next { s with out := Expected.xy 12 r q })
    ∧ (ok 13 → exec (.xorReg r q) s = .next { s with out := Expected.xy 13 r q })
    ∧ (ok 14 → exec (.addReg r q) s = .next { s with out := Expected.xy 14 r q })
    ∧ (ok 15 → exec (.subReg r q) s = .next { s with out := Expected.xy 15 r q })
    ∧ (ok 16 → exec (.shrReg r q) s = .next { s with out := Expected.xy 16 r q })
    ∧ (ok 17 → exec (.subnReg r q) s = .next { s with out := Expected.xy 17 r q })
    ∧ (ok 18 → exec (.shlReg r q) s = .next { s with out := Expected.xy 18 r q })
    ∧ (ok 19 → exec (.sneReg r q) s = .next { s with out := Expected.xy 19 r q })

/-- DRW delivers both registers and the nibble where `VF_REJECT` refuses neither register; nothing
else changes (R166). -/
def Obligations.DrwDeliversBothRegistersAndNibble : Prop :=
  ∀ (s : State) (r q : Reg) (n : Imm4), s.table = defaultTable →
    ¬ Expected.refused s.vfReject 23 0 r → ¬ Expected.refused s.vfReject 23 1 q →
      exec (.drw r q n) s = .next { s with out := Expected.xyn 23 r q n }

/-- SKP, SKNP and the nine keyword formats deliver one register, from whichever slot it stands in, and
the keyword's kind code in the other, where `VF_REJECT` does not refuse the register; nothing else
changes (R167, R168, R175 to R183). -/
def Obligations.SingleRegisterFormatsDeliverTheRegister : Prop :=
  ∀ (s : State) (r : Reg), s.table = defaultTable →
    (¬ Expected.refused s.vfReject 24 0 r →
      exec (.skp r) s = .next { s with out := Expected.x 24 1 0 r })
    ∧ (¬ Expected.refused s.vfReject 25 0 r →
      exec (.sknp r) s = .next { s with out := Expected.x 25 1 0 r })
    ∧ (¬ Expected.refused s.vfReject 26 0 r →
      exec (.ldVxDt r) s = .next { s with out := Expected.x 26 1 4 r })
    ∧ (¬ Expected.refused s.vfReject 27 0 r →
      exec (.ldVxK r) s = .next { s with out := Expected.x 27 1 13 r })
    ∧ (¬ Expected.refused s.vfReject 28 1 r →
      exec (.ldDtVx r) s = .next { s with out := Expected.x 28 4 1 r })
    ∧ (¬ Expected.refused s.vfReject 29 1 r →
      exec (.ldStVx r) s = .next { s with out := Expected.x 29 5 1 r })
    ∧ (¬ Expected.refused s.vfReject 30 1 r →
      exec (.addIVx r) s = .next { s with out := Expected.x 30 6 1 r })
    ∧ (¬ Expected.refused s.vfReject 31 1 r →
      exec (.ldFVx r) s = .next { s with out := Expected.x 31 9 1 r })
    ∧ (¬ Expected.refused s.vfReject 32 1 r →
      exec (.ldBVx r) s = .next { s with out := Expected.x 32 8 1 r })
    ∧ (¬ Expected.refused s.vfReject 33 1 r →
      exec (.ldIndVx r) s = .next { s with out := Expected.x 33 7 1 r })
    ∧ (¬ Expected.refused s.vfReject 34 0 r →
      exec (.ldVxInd r) s = .next { s with out := Expected.x 34 1 7 r })

/-- DB changes nothing in the block and puts one byte into an image; no word decodes to it, and the
words its row matches decode to SYS, CLS or RET, with pseudo-directives tested or not (R190; its row is
log entry 1, and that exec of it is a next state log entry 9). -/
def Obligations.DbIsNeverDecodedAndChangesNothing : Prop :=
  (∀ (s : State) (k : Imm8), exec (.db k) s = .next s ∧ encodeBytes (.db k) = [k])
    ∧ (∀ w : Word, hitAt true defaultTable 35 w = false ∧ ∀ k : Imm8, decodeWord w ≠ some (.db k))
    ∧ (∀ (skip : Bool) (w : Word), w.toNat ≤ 0x00FF → sel skip defaultTable w
        = if w = 0x00E0 then some 0 else if w = 0x00EE then some 1 else some 2)

/-- Where `VF_REJECT` refuses a register operand of an instruction, its form is IllegalOpcode: the
outputs of IllegalOpcode and nothing else changed (R109, the spec's decision D7, log entry 4, and
the `VF_REJECT` sentence of R140 to R183). -/
def Obligations.RefusedRegisterOperandIsIllegalOpcode : Prop :=
  ∀ (s : State) (i : Instr) (e t : Nat) (r : Reg), s.table = defaultTable → (e, t, r) ∈ Expected.registerSlots i →
    Expected.refused s.vfReject e t r → exec i s = .next { s with out := Expected.illegal }

/-- Every instruction completes in every state, and changes nothing but the outputs: no input, no
waiting word, no parameter (R20, R26, R52, R200). That exec of DB, which no word decodes to (R190), is a
next state and not a stop is the model's choice (log entry 9). -/
def Obligations.EveryInstructionCompletesAndChangesOnlyOutputs : Prop :=
  ∀ (i : Instr) (s : State), ∃ t : State, exec i s = .next t ∧ s.sameButOut t

/-! ## The whole step -/

/-- A running machine, built with whatever table, answers the word presented with exactly the block's
outputs: the decode of R110 over its table, encoded as R33 says, no id cut (R230, R5; the step is the
model's, log entries 1, 6, 11, 13). -/
def Obligations.StepIsTheWholeDecodeFunction : Prop :=
  ∀ s : State, s.running →
    step s = .next { s.present with
      out := blockOutputs s.table s.vfReject s.present.wordI }

/-- The combinational reading and the soundness of the outputs are kept by every step, whatever the table
(R230, R27, R32, R34; the combinational form and the ports are the spec's decision D9, log entry 11). -/
def Obligations.StepKeepsOutputsCombinationalAndSound : Prop :=
  ∀ s t : State, s.combinational ∧ s.out.sound s.table.length → step s = .next t →
    t.combinational ∧ t.out.sound t.table.length

/-- The reset state has the invariant and is running; its outputs are the decode of the word on the
input (R35), the table is the default (R5) and `VF_REJECT` nowhere set (R109). That the word is 0 and that
no word waits is the model's choice (log entry 7). -/
def Obligations.ResetStateIsCombinationalSoundAndRunning : Prop :=
  State.reset.combinational ∧ State.reset.out.sound 36 ∧ State.reset.running
    ∧ State.reset.table = defaultTable
    ∧ State.reset.vfReject = [] ∧ State.reset.wordI = 0 ∧ State.reset.pending = []

/-- A step takes the first waiting word, if any, and never writes a parameter of the block or the
engine (R21, R28, R234; the queue is the model's, log entry 6). -/
def Obligations.StepTakesOneWordAndKeepsTheParameters : Prop :=
  ∀ s t : State, step s = .next t →
    t.pending = s.pending.tail ∧ t.wordI = s.pending.headD s.wordI
      ∧ t.table = s.table ∧ t.vfReject = s.vfReject ∧ t.illegalResponse = s.illegalResponse

/-- The answer to a word does not depend on what was shown before, an IllegalOpcode included: it is not
sticky (R31, R47, R207). -/
def Obligations.EarlierOutputsDoNotInfluenceTheNext : Prop :=
  ∀ s s' t t' : State, s.wordI = s'.wordI → s.pending = s'.pending →
    s.table = s'.table → s.vfReject = s'.vfReject → step s = .next t → step s' = .next t' → t.out = t'.out

/-- Decoding the held word again gives the same outputs and the same state (R44, R112, R31, R233). That a
step with no word waiting decodes the held word again is the model's choice (log entry 6). -/
def Obligations.DecodingTheHeldWordAgainChangesNothing : Prop :=
  ∀ s t : State, step s = .next t → t.running → t.pending = [] → step t = .next t

/-- After IllegalOpcode the engine that halts never goes on, and the one that goes on presents its next
word. Which it does is the parameter `ILLEGAL_RESPONSE` (R203; the halt is the spec's recommended
reading, D13, and the form is the model's, log entry 5). -/
def Obligations.IllegalOpcodeHaltsOrGoesOnByTheParameter : Prop :=
  (∀ (s : State) (k : Nat), s.out.illegalO = true → s.illegalResponse = .halt →
      Host.Core.run core (k + 1) s = Host.Outcome.fault Fault.illegalOpcode)
    ∧ (∀ s : State, s.illegalResponse = .goOn ∨ s.out.illegalO = false → ∃ t, step s = .next t)

/-- The machine never refuses, and it stops in one case only: the engine has halted on an IllegalOpcode.
A running machine answers every word (R52, R112; the halt is R203's recommended reading). -/
def Obligations.StepStopsOnlyWhereTheEngineHasHalted : Prop :=
  ∀ s : State, (∀ r : Refusal, step s ≠ .refused r)
    ∧ (step s = .fault .illegalOpcode ↔ s.out.illegalO = true ∧ s.illegalResponse = .halt)
    ∧ ((∃ t, step s = .next t) ↔ s.running)

/-- A stream of words is answered word by word, whatever the table. An engine that halts stops right after
the first illegal word, which it has seen answered; one that goes on has every word answered (R52, R203,
R207, program P5 of `95_test_vectors.md`; the queue is the model's, log entry 6, the form of the halt log
entry 5). -/
def Obligations.StreamIsAnsweredUntilTheFirstIllegalWord : Prop :=
  ∀ (s : State) (ws rest : List Word) (w : Word), s.running → s.pending = ws ++ w :: rest →
    (((∀ v ∈ ws, legalWord s.table s.vfReject v = true) ∨ s.illegalResponse = .goOn) →
      Host.Core.run core (ws.length + 1) s = Host.Outcome.next
        ({ s with wordI := w, pending := rest,
                  out := blockOutputs s.table s.vfReject w } : State))
    ∧ ((∀ v ∈ ws, legalWord s.table s.vfReject v = true) → legalWord s.table s.vfReject w = false →
        s.illegalResponse = .halt →
        Host.Core.run core (ws.length + 2) s = Host.Outcome.fault Fault.illegalOpcode)

/-! ## The arbiter and the extractor, for every table -/

/-- An entry matches exactly when the masked word equals its pattern, all 16 bits; nothing else of the
entry takes part in the test (R101). -/
def Obligations.MatchComparesOnlyTheMaskedWordWithThePattern : Prop :=
  ∀ (e e' : Entry) (w : Word),
    (e.isMatch w = true ↔ w &&& e.mask = e.pattern)
    ∧ (e.mask = e'.mask → e.pattern = e'.pattern → e.isMatch w = e'.isMatch w)

/-- An entry whose pattern has a bit outside its mask matches no word, and all 36 entries of the
default table keep the invariant (R22). -/
def Obligations.EntryInvariantHoldsAndItsBreachNeverMatches : Prop :=
  (∀ e ∈ defaultTable, e.pattern &&& e.mask = e.pattern)
    ∧ ∀ (e : Entry) (w : Word), e.pattern &&& e.mask ≠ e.pattern → e.isMatch w = false

/-- What a refinement hits, the entry it refines hits too; standing behind that entry it never wins;
and the default table has every refinement in front (R23, whose exact form the spec marks as derived;
the default table is log entry 1). -/
def Obligations.RefinementsMustStandFirst : Prop :=
  (∀ (a b : Entry) (w : Word), a.refines b = true → a.hit true w = true → b.hit true w = true)
    ∧ (∀ (T : Table) (i j : Nat) (a b : Entry) (w : Word), T[i]? = some a → T[j]? = some b →
        a.refines b = true → j < i → sel true T w ≠ some i)
    ∧ Table.ordered defaultTable

/-- The winner is the least index that hits and there is none exactly when nothing hits; it is an entry,
never the sentinel; what stands behind it has no influence (R104). Whether pseudo-directives take part
is left open here. -/
def Obligations.LowestHitWins : Prop :=
  ∀ (skip : Bool) (T : Table) (w : Word),
    (∀ i : Nat, sel skip T w = some i ↔
      hitAt skip T i w = true ∧ ∀ j < i, hitAt skip T j w = false)
    ∧ (sel skip T w = none ↔ ∀ i : Nat, hitAt skip T i w = false)
    ∧ (∀ i : Nat, sel skip T w = some i →
        i < T.length ∧ ∀ rest : Table, sel skip (T.take (i + 1) ++ rest) w = some i)

/-- All comparisons at once with a priority encoder, and one after the other until the first match, give
the same value for every word and every table (R105, marked derived by the spec, with decision D20). -/
def Obligations.ParallelAndSequentialArbitrationAgree : Prop :=
  ∀ (skip : Bool) (T : Table) (w : Word), selParallel skip T w = sel skip T w

/-- The fields of an entry: each present exactly when its kind is in the list, and cut from its own
bits, whichever slot the kind stands in (R107; the places of `n` and `nnn` are the spec's decision D2,
log entry 2). -/
def Obligations.FieldsAreCutByKindWhateverTheSlot : Prop :=
  ∀ (e : Entry) (w : Word),
    fieldsOf e w =
      { x   := if .regHi ∈ e.kinds then some (w.extractLsb' 8 4) else none
        y   := if .regLo ∈ e.kinds then some (w.extractLsb' 4 4) else none
        n   := if .imm4 ∈ e.kinds then some (w.extractLsb' 0 4) else none
        kk  := if .imm8 ∈ e.kinds then some (w.extractLsb' 0 8) else none
        nnn := if .addr12 ∈ e.kinds then some (w.extractLsb' 0 12) else none }

/-- The `VF` restriction: the winner with a refused register value of 15 gives IllegalOpcode and no later
entry is tried, every other winner is delivered, and by default the restriction never fires (R109, the
spec's decision D7, log entry 4). -/
def Obligations.VfRestrictionRejectsTheWinnerWithoutBacktracking : Prop :=
  (∀ (T : Table) (vr : VfReject) (w : Word) (i : Nat) (e : Entry), sel true T w = some i →
      T[i]? = some e →
      ((∃ t < 3, (i, t) ∈ vr ∧ ((e.kindAt t = .regHi ∧ w.extractLsb' 8 4 = (15 : Reg))
          ∨ (e.kindAt t = .regLo ∧ w.extractLsb' 4 4 = (15 : Reg)))) →
        decodeWith true T vr w = .illegalOpcode)
      ∧ ((¬ ∃ t < 3, (i, t) ∈ vr ∧ ((e.kindAt t = .regHi ∧ w.extractLsb' 8 4 = (15 : Reg))
          ∨ (e.kindAt t = .regLo ∧ w.extractLsb' 4 4 = (15 : Reg)))) →
        decodeWith true T vr w = .decoded i (fieldsOf e w)))
    ∧ ∀ (T : Table) (w : Word), decodeWith true T Config.vfRejectDefault w
        = match sel true T w with
          | none   => .illegalOpcode
          | some i => .decoded i (((T[i]?).map fun e => fieldsOf e w).getD {})

/-- IllegalOpcode arises in exactly two ways: no participating entry matches, or the winner's `VF`
restriction fires (R111; the second way is the spec's decision D7, log entry 4). -/
def Obligations.IllegalOpcodeArisesInExactlyTwoWays : Prop :=
  ∀ (T : Table) (vr : VfReject) (w : Word),
    decodeWith true T vr w = .illegalOpcode ↔
      (∀ e ∈ T, ¬ (e.cls = .machine ∧ w &&& e.mask = e.pattern))
      ∨ ∃ i e, sel true T w = some i ∧ T[i]? = some e ∧ vfRejected vr i e w = true

/-- Soundness of a decoded result: a machine entry that matches, no earlier hit, each field present
exactly when its kind is listed and equal to its bits, and pattern, fields and don't-care bits
together give the word back (R113, marked derived by the spec; that pseudo-directives are skipped is
log entry 12, the places of `n` and `nnn` log entry 2, a well-formed table log entry 15). -/
def Obligations.DecodedResultIsSound : Prop :=
  ∀ (T : Table) (vr : VfReject) (w : Word) (i : Nat) (f : Fields),
    decodeWith true T vr w = .decoded i f →
    ∃ e, T[i]? = some e ∧ e.cls = .machine ∧ w &&& e.mask = e.pattern
      ∧ (∀ j < i, hitAt true T j w = false)
      ∧ f.x = (if .regHi ∈ e.kinds then some (w.extractLsb' 8 4) else none)
      ∧ f.y = (if .regLo ∈ e.kinds then some (w.extractLsb' 4 4) else none)
      ∧ f.n = (if .imm4 ∈ e.kinds then some (w.extractLsb' 0 4) else none)
      ∧ f.kk = (if .imm8 ∈ e.kinds then some (w.extractLsb' 0 8) else none)
      ∧ f.nnn = (if .addr12 ∈ e.kinds then some (w.extractLsb' 0 12) else none)
      ∧ (Table.wellFormed T → encodeFields e f ||| (w &&& ~~~(e.mask ||| e.fbits)) = w)

/-- Bits outside the winner's mask and fields do not matter to what it delivers, the encoder writes them
0, and the default table has none in a machine entry (R75, the spec's decision D16, log entry 15, read
for two words with the same winner; the default table is log entry 1). -/
def Obligations.DontCareBitsAreIgnored : Prop :=
  (∀ (T : Table) (vr : VfReject) (w w' : Word) (i : Nat) (e : Entry), T[i]? = some e →
      sel true T w = some i → sel true T w' = some i →
      (w ^^^ w') &&& (e.mask ||| e.fbits) = 0 → decodeWith true T vr w = decodeWith true T vr w')
    ∧ (∀ (e : Entry) (f : Fields), e.patternInMask = true →
        encodeFields e f &&& ~~~(e.mask ||| e.fbits) = 0)
    ∧ ∀ e ∈ defaultTable, e.cls = .machine → e.mask ||| e.fbits = 0xFFFF

/-! ## Encoding -/

/-- Round trip for every well-formed table: encode an entry's operands, decode, and format id and
operands are back, provided no earlier entry hits and `VF_REJECT` does not fire. In the default table
the proviso fails for exactly two tuples, `SYS 0x0E0` and `SYS 0x0EE`, which decode as CLS and RET
(R74, marked derived by the spec; a well-formed table is its decision D16, log entry 15, the default
table log entry 1). -/
def Obligations.EncodeThenDecodeGivesFormatAndOperandsBack : Prop :=
  (∀ (T : Table) (vr : VfReject) (i : Nat) (e : Entry) (f : Fields),
      Table.wellFormed T → T[i]? = some e → e.cls = .machine → e.suits f = true →
      (∀ j < i, hitAt true T j (encodeFields e f) = false) →
      vfRejected vr i e (encodeFields e f) = false →
      decodeWith true T vr (encodeFields e f) = .decoded i f)
    ∧ (∀ (i : Nat) (e : Entry) (f : Fields), defaultTable[i]? = some e → e.cls = .machine →
        e.suits f = true →
        (decodeWith true defaultTable [] (encodeFields e f) = .decoded i f
          ↔ ¬ (i = 2 ∧ (f.nnn = some 0x0E0 ∨ f.nnn = some 0x0EE))))
    ∧ decodeWith true defaultTable [] (encode (.sys 0x0E0)) = .decoded 0 {}
    ∧ decodeWith true defaultTable [] (encode (.sys 0x0EE)) = .decoded 1 {}

/-- Decoding the bytes an instruction puts into an image gives the instruction and leaves what follows,
for every well-formed instruction with every operand value (R60, R73, R74, R114; the default table is
log entry 1, the byte order log entry 3, and which instructions are well-formed log entry 9). -/
def Obligations.DecodeInvertsEncodeForEveryInstruction : Prop :=
  ∀ (i : Instr) (rest : List Byte), i.wellFormed = true →
    decodeWord (encode i) = some i ∧ decode (encodeBytes i ++ rest) = .ok (i, rest)

/-- A word that decodes is the encoding of what it decodes to, which is well-formed: under the default
table no bit of a word is dropped and no word has two readings (R75, R113 (e); the default table is log
entry 1). -/
def Obligations.EncodeInvertsDecodeForEveryWord : Prop :=
  ∀ (w : Word) (i : Instr), decodeWord w = some i → encode i = w ∧ i.wellFormed = true

/-- An instruction is always two bytes of the sequence it is decoded from, the first byte in bits 15..8,
at any offset, and fewer bytes hold none (R42, R43, R60; byte order and alignment are the spec's
decisions D10 and D11, log entry 3). -/
def Obligations.EveryInstructionTakesExactlyOneWord : Prop :=
  (∀ (bs rest : List Byte) (i : Instr), decode bs = .ok (i, rest) →
      ∃ hi lo, bs = hi :: lo :: rest ∧ decodeWord (hi ++ lo) = some i)
    ∧ (∀ bs : List Byte, bs.length < 2 → decode bs = .error .noWholeWord)
    ∧ (∀ (pre : List Byte) (hi lo : Byte) (post : List Byte),
        fetchWord (pre ++ hi :: lo :: post) pre.length = some (hi ++ lo))

/-- An image of instructions without data bytes holds their words in order; a data byte in front moves
every later word by one byte (R42, R43, R90, R191; log entry 3). -/
def Obligations.ImageHoldsTheWordsInOrder : Prop :=
  (∀ is : List Instr, (∀ i ∈ is, i.fmt ≠ 35) →
      imageWords (is.flatMap encodeBytes) = is.map encode)
    ∧ ∀ (k : Imm8) (is : List Instr) (a : Nat),
        fetchWord (encodeBytes (.db k) ++ is.flatMap encodeBytes) (a + 1)
          = fetchWord (is.flatMap encodeBytes) a

/-! ## The default table -/

/-- The eight checks that tie a table to the document, on the default table: the three anchored words,
the entry and the ordering invariant, kinds, a `DB` that emits one byte, about 40 comparisons (R83). Its
other rows are log entry 1. -/
def Obligations.DefaultTablePassesTheDocumentsChecks : Prop :=
  (decodeWith true defaultTable [] 0x1000 = .decoded 3 { nnn := some 0 }
      ∧ (defaultTable[3]?.map Entry.mnemonic) = some "JP")
    ∧ (decodeWith true defaultTable [] 0x63FF = .decoded 8 { x := some 3, kk := some 0xFF }
      ∧ (defaultTable[8]?.map Entry.mnemonic) = some "LD")
    ∧ decodeWith true defaultTable [] 0xFFFF = .illegalOpcode
    ∧ (∀ e ∈ defaultTable, e.patternInMask = true) ∧ Table.ordered defaultTable
    ∧ (∀ e ∈ defaultTable, e.kinds.length = 3)
    ∧ (∃ e ∈ defaultTable, e.mnemonic = "DB" ∧ e.cls = .pseudo)
    ∧ (∀ k : Imm8, (encodeBytes (.db k)).length = 1) ∧ defaultTable.length ≤ 40

/-- The default table meets all five conditions of a well-formed table, every machine entry winning some
word included (R77, the spec's decision D16, log entry 15; the table is log entry 1). -/
def Obligations.DefaultTableIsWellFormed : Prop := Table.wellFormed defaultTable

/-- The opcode map in prose and the scan of the default table pick the same entry for every word
(R79, marked derived by the spec; the table is log entry 1). -/
def Obligations.OpcodeMapAgreesWithTheTableScan : Prop :=
  ∀ w : Word, sel true defaultTable w = Expected.opcodeMap w

/-- The overlaps of the default table: which pairs of entries can match one word, the two words where
priority decides among machine entries, what `DB` matches and who stands before it, and that testing
pseudo-directives would change no result (R80, marked derived by the spec; the table is log entry 1). -/
def Obligations.OverlapsOfTheDefaultTable : Prop :=
  (∀ (i j : Nat) (a b : Entry), i < j → defaultTable[i]? = some a → defaultTable[j]? = some b →
      ((∃ w : Word, a.isMatch w = true ∧ b.isMatch w = true)
        ↔ (i, j) ∈ [(0, 2), (1, 2), (0, 35), (1, 35), (2, 35)]))
    ∧ (∀ w : Word, (∃ i j : Nat, i < j ∧ hitAt true defaultTable i w = true
          ∧ hitAt true defaultTable j w = true) ↔ (w = 0x00E0 ∨ w = 0x00EE))
    ∧ sel true defaultTable 0x00E0 = some 0 ∧ sel true defaultTable 0x00EE = some 1
    ∧ (∀ w : Word, hitAt false defaultTable 35 w = true ↔ w.toNat ≤ 0x00FF)
    ∧ (∀ w : Word, w.toNat ≤ 0x00FF → ∃ i < 3, hitAt true defaultTable i w = true)
    ∧ ∀ (vr : VfReject) (w : Word),
        decodeWith true defaultTable vr w = decodeWith false defaultTable vr w

/-- The illegal words under the default table: bits 15..12 and the bits listed, and no word under any
other nibble; how many they are under each nibble and in all (R81, marked derived by
the spec; the table is log entry 1). -/
def Obligations.IllegalWordsOfTheDefaultTable : Prop :=
  (∀ w : Word, decodeWith true defaultTable [] w = .illegalOpcode ↔
    (Expected.top w = 5 ∧ w.toNat % 16 ≠ 0)
    ∨ (Expected.top w = 8 ∧ w.toNat % 16 ∈ [0x8, 0x9, 0xA, 0xB, 0xC, 0xD, 0xF])
    ∨ (Expected.top w = 9 ∧ w.toNat % 16 ≠ 0)
    ∨ (Expected.top w = 14 ∧ Expected.low w ∉ [0x9E, 0xA1])
    ∨ (Expected.top w = 15 ∧
        Expected.low w ∉ [0x07, 0x0A, 0x15, 0x18, 0x1E, 0x29, 0x33, 0x55, 0x65]))
    ∧ (List.range 16).map (fun t => (List.range 4096).countP fun k =>
        decodeWith true defaultTable [] (BitVec.ofNat 16 (4096 * t + k)) == .illegalOpcode)
      = [0, 0, 0, 0, 0, 3840, 0, 0, 1792, 3840, 0, 0, 0, 0, 4064, 3952]
    ∧ 3840 + 1792 + 3840 + 4064 + 3952 = 17488 ∧ 17488 + 48048 = 65536

/-- The flow formats, word by word: which words decode to them and with which fields, whatever
`VF_REJECT` is (R130 to R135; the rows are log entry 1). -/
def Obligations.FlowWordsDecodeByTheirRules : Prop :=
  ∀ (vr : VfReject) (w : Word),
    let d := decodeWith true defaultTable vr w
    let f : Fields := { nnn := some (w.extractLsb' 0 12) }
    (w = 0x00E0 ↔ d = .decoded 0 {}) ∧ (w = 0x00EE ↔ d = .decoded 1 {})
    ∧ (Expected.top w = 0x0 ∧ w ≠ 0x00E0 ∧ w ≠ 0x00EE ↔ d = .decoded 2 f)
    ∧ (Expected.top w = 0x1 ↔ d = .decoded 3 f) ∧ (Expected.top w = 0x2 ↔ d = .decoded 4 f)
    ∧ (Expected.top w = 0xB ↔ d = .decoded 21 f)

/-- The register and byte formats, word by word (R140 to R144; the rows are log entry 1, the restriction
log entry 4). -/
def Obligations.RegisterByteWordsDecodeByTheirRules : Prop :=
  ∀ (vr : VfReject) (w : Word),
    let d := decodeWith true defaultTable vr w
    let f : Fields := { x := some (w.extractLsb' 8 4), kk := some (w.extractLsb' 0 8) }
    let ok := fun i : Nat => ¬ Expected.refused vr i 0 (w.extractLsb' 8 4)
    (Expected.top w = 0x3 ∧ ok 5 ↔ d = .decoded 5 f) ∧ (Expected.top w = 0x4 ∧ ok 6 ↔ d = .decoded 6 f)
    ∧ (Expected.top w = 0x6 ∧ ok 8 ↔ d = .decoded 8 f)
    ∧ (Expected.top w = 0x7 ∧ ok 9 ↔ d = .decoded 9 f)
    ∧ (Expected.top w = 0xC ∧ ok 22 ↔ d = .decoded 22 f)

/-- The two-register formats, word by word (R150 to R160; the rows are log entry 1, the restriction log
entry 4). -/
def Obligations.RegisterRegisterWordsDecodeByTheirRules : Prop :=
  ∀ (vr : VfReject) (w : Word),
    let d := decodeWith true defaultTable vr w
    let f : Fields := { x := some (w.extractLsb' 8 4), y := some (w.extractLsb' 4 4) }
    let ok := fun i : Nat => ¬ Expected.refused vr i 0 (w.extractLsb' 8 4)
      ∧ ¬ Expected.refused vr i 1 (w.extractLsb' 4 4)
    ∀ p ∈ [(0x5, 0x0, 7), (0x8, 0x0, 10), (0x8, 0x1, 11), (0x8, 0x2, 12), (0x8, 0x3, 13),
        (0x8, 0x4, 14), (0x8, 0x5, 15), (0x8, 0x6, 16), (0x8, 0x7, 17), (0x8, 0xE, 18), (0x9, 0x0, 19)],
      (Expected.top w = p.1 ∧ w.toNat % 16 = p.2.1 ∧ ok p.2.2 ↔ d = .decoded p.2.2 f)

/-- LD I, DRW, SKP and SKNP, word by word (R165 to R168; the rows are log entry 1, the restriction
log entry 4). -/
def Obligations.IndexDrawKeyWordsDecodeByTheirRules : Prop :=
  ∀ (vr : VfReject) (w : Word),
    let d := decodeWith true defaultTable vr w
    let r : Reg := w.extractLsb' 8 4
    let q : Reg := w.extractLsb' 4 4
    (Expected.top w = 0xA ↔ d = .decoded 20 { nnn := some (w.extractLsb' 0 12) })
    ∧ (Expected.top w = 0xD ∧ ¬ Expected.refused vr 23 0 r ∧ ¬ Expected.refused vr 23 1 q
        ↔ d = .decoded 23 { x := some r, y := some q, n := some (w.extractLsb' 0 4) })
    ∧ (Expected.top w = 0xE ∧ Expected.low w = 0x9E ∧ ¬ Expected.refused vr 24 0 r
        ↔ d = .decoded 24 { x := some r })
    ∧ (Expected.top w = 0xE ∧ Expected.low w = 0xA1 ∧ ¬ Expected.refused vr 25 0 r
        ↔ d = .decoded 25 { x := some r })

/-- The keyword formats of the `F` group, word by word: low byte, entry, and the slot of the register
(R175 to R183; the rows are log entry 1, the restriction log entry 4). -/
def Obligations.KeywordWordsDecodeByTheirRules : Prop :=
  ∀ (vr : VfReject) (w : Word),
    ∀ p ∈ [(0x07, 26, 0), (0x0A, 27, 0), (0x15, 28, 1), (0x18, 29, 1), (0x1E, 30, 1), (0x29, 31, 1),
        (0x33, 32, 1), (0x55, 33, 1), (0x65, 34, 0)],
      (Expected.top w = 0xF ∧ Expected.low w = p.1
          ∧ ¬ Expected.refused vr p.2.1 p.2.2 (w.extractLsb' 8 4)
        ↔ decodeWith true defaultTable vr w
            = .decoded p.2.1 { x := some (w.extractLsb' 8 4) })

/-! ## The ports -/

/-- The correspondence between results and port values, for any table, and that it is one-to-one (R33, the spec's decisions D3, D4, D9, log entries 10
and 11). -/
def Obligations.ResultsAndPortValuesCorrespondOneToOne : Prop :=
  (∀ T : Table, Ports.ofResult T .illegalOpcode
      = { Expected.illegal with fmtO := T.length })
    ∧ (∀ (T : Table) (i : Nat) (e : Entry) (f : Fields), T[i]? = some e →
        Ports.ofResult T (.decoded i f)
          = { illegalO := false, fmtO := i
              kind0O := kindCode e.kind0, kind1O := kindCode e.kind1, kind2O := kindCode e.kind2
              xV := f.x.isSome, xO := f.x.getD 0, yV := f.y.isSome, yO := f.y.getD 0
              kkV := f.kk.isSome, kkO := f.kk.getD 0, nV := f.n.isSome, nO := f.n.getD 0
              nnnV := f.nnn.isSome, nnnO := f.nnn.getD 0 })
    ∧ (∀ (T : Table) (i j : Nat) (f g : Fields), i < T.length → j < T.length →
        Ports.ofResult T (.decoded i f) = Ports.ofResult T (.decoded j g) → i = j ∧ f = g)
    ∧ ∀ (T : Table) (r : Result), (Ports.ofResult T r).illegalO = true ↔ r = .illegalOpcode

/-- The kind codes are the positions in the document's list, and code 15 is never driven (R34, the spec's
decision D9, log entry 11). -/
def Obligations.KindCodesFollowTheDocumentsList : Prop :=
  [Kind.none, .regHi, .regLo, .fixedV0, .timerDelay, .timerSound, .index, .indexInd, .bcd, .sprite,
      .imm4, .imm8, .addr12, .keyWait, .nullPh].map kindCode
      = [0, 1, 2, 3, 4, 5, 6, 7, 8, 9, 10, 11, 12, 13, 14]
    ∧ ∀ (T : Table) (r : Result), (Ports.ofResult T r).kind0O ≠ 15
        ∧ (Ports.ofResult T r).kind1O ≠ 15 ∧ (Ports.ofResult T r).kind2O ≠ 15

/-- `FID_W = ceil(log2(N + 1))`, derived from the length of the table: the least width that holds `N + 1`
values, 6 for the default table, 7 from 64 entries on; and whatever the table, what the block drives on
`fmt_o` is a number of that width (R5, R32, the spec's decision D3, log entry 10). -/
def Obligations.FormatIdPortHasTheWidthItsTableNeeds : Prop :=
  (∀ n w : Nat, Config.fidW n ≤ w ↔ n + 1 ≤ 2 ^ w)
    ∧ Config.fidW defaultTable.length = 6 ∧ Config.fidW 63 = 6 ∧ Config.fidW 64 = 7
    ∧ ∀ (T : Table) (vr : VfReject) (w : Word),
        (blockOutputs T vr w).fmtO ≤ T.length
          ∧ (blockOutputs T vr w).fmtO < 2 ^ Config.fidW T.length
end

