-- ==== Sys2Proof/Laws/Decode.lean ====
section
/-! SUPPORT. Small lemmas of the arbiter, the extractor and the encoder. -/

namespace Sys2Proof

/-- The match predicate as an equation of words. -/
theorem isMatch_iff {e : Entry} {w : Word} : e.isMatch w = true ↔ w &&& e.mask = e.pattern := by
  simp [Entry.isMatch]

/-- A hit needs the class and the match (with `SKIP_PSEUDO`). -/
theorem hit_iff {e : Entry} {w : Word} :
    e.hit true w = true ↔ e.cls = .machine ∧ w &&& e.mask = e.pattern := by
  simp [Entry.hit, isMatch_iff]

theorem hitAt_some {skip : Bool} {T : Table} {i : Nat} {e : Entry} (w : Word) (h : T[i]? = some e) :
    hitAt skip T i w = e.hit skip w := by
  simp [hitAt, h]

theorem hitAt_none {skip : Bool} {T : Table} {i : Nat} (w : Word) (h : T[i]? = none) :
    hitAt skip T i w = false := by
  simp [hitAt, h]

@[simp] theorem selFrom_nil (skip : Bool) (k : Nat) (w : Word) : selFrom skip [] k w = none := rfl

theorem selFrom_cons (skip : Bool) (e : Entry) (es : Table) (k : Nat) (w : Word) :
    selFrom skip (e :: es) k w = if e.hit skip w then some k else selFrom skip es (k + 1) w := rfl

@[simp] theorem extract_regHi (w : Word) : extract .regHi w = { x := some (cutX w) } := rfl
@[simp] theorem extract_regLo (w : Word) : extract .regLo w = { y := some (cutY w) } := rfl
@[simp] theorem extract_imm4 (w : Word) : extract .imm4 w = { n := some (cutN w) } := rfl
@[simp] theorem extract_imm8 (w : Word) : extract .imm8 w = { kk := some (cutKK w) } := rfl
@[simp] theorem extract_addr12 (w : Word) : extract .addr12 w = { nnn := some (cutNNN w) } := rfl
@[simp] theorem extract_none (w : Word) : extract .none w = {} := rfl

theorem selFrom_bounds {skip : Bool} {T : Table} {k i : Nat} {w : Word}
    (h : selFrom skip T k w = some i) : k ≤ i ∧ i < k + T.length := by
  induction T generalizing k with
  | nil => cases h
  | cons e es ih =>
    rw [selFrom_cons] at h
    split at h
    · cases h; simp
    · have := ih h; simp only [List.length_cons]; omega

/-- The winner is an entry, never the sentinel. -/
theorem sel_lt {skip : Bool} {T : Table} {i : Nat} {w : Word} (h : sel skip T w = some i) :
    i < T.length := by
  have := selFrom_bounds h; omega

/-- Equal formats extract alike. -/
theorem sameFormat_iff {a b : Entry} : a.sameFormat b = true ↔
    a.pattern = b.pattern ∧ a.mask = b.mask ∧ a.cls = b.cls ∧ a.kind0 = b.kind0
      ∧ a.kind1 = b.kind1 ∧ a.kind2 = b.kind2 := by
  simp [Entry.sameFormat, and_assoc]

@[simp] theorem defaultTable_length : defaultTable.length = 36 := rfl

/-- Every instruction has a row, so `encode` never takes its default. -/
theorem fmt_lt (i : Instr) : i.fmt < defaultTable.length := by
  cases i <;> (simp only [defaultTable_length, Instr.fmt]; omega)

/-- An instruction of a row has the row's index and the fields the row's entry cuts from the word. -/
theorem instrAt_spec {i : Nat} {d : Entry} {w : Word} {j : Instr} (hd : defaultTable[i]? = some d)
    (h : instrAt i w = some j) : j.fmt = i ∧ j.fields = fieldsOf d w := by
  have hi : i < 36 := by
    obtain ⟨hi, -⟩ := List.getElem?_eq_some_iff.1 hd
    simpa using hi
  interval_cases i <;> (cases hd; cases h; exact ⟨rfl, rfl⟩)

/-- Every row of the default table stands for an instruction. -/
theorem instrAt_isSome {i : Nat} (w : Word) (hi : i < 36) : (instrAt i w).isSome = true := by
  interval_cases i <;> rfl

/-- Where an entry stands for an instruction, the instruction has the entry's index and fields. -/
theorem instrOfRow_spec {i : Nat} {e : Entry} {w : Word} {j : Instr} (h : instrOfRow i e w = some j) :
    j.fmt = i ∧ j.fields = fieldsOf e w := by
  unfold instrOfRow at h
  split at h
  next hs =>
    cases hd : defaultTable[i]? with
    | none => simp [hd] at hs
    | some d =>
      obtain ⟨-, -, -, h0, h1, h2⟩ := sameFormat_iff.1 (show e.sameFormat d = true by simpa [hd] using hs)
      simpa [fieldsOf, h0, h1, h2] using instrAt_spec hd h
  next => cases h

/-- In the default table every winner is a row of `Instr`: what a word selects is what it decodes to. -/
theorem selectIn_default (w : Word) : selectIn defaultTable w =
    match decodeWord w with
    | some i => .instr i
    | none   => .noHit := by
  unfold selectIn decodeWord
  cases hsel : sel Config.skipPseudo defaultTable w with
  | none => rfl
  | some i =>
    have hi : i < defaultTable.length := sel_lt hsel
    obtain ⟨j, hj⟩ := Option.isSome_iff_exists.1 (instrAt_isSome w (by simpa using hi))
    have hs : (defaultTable[i]'hi).sameFormat (defaultTable[i]'hi) = true := by simp [Entry.sameFormat]
    simp [List.getElem?_eq_getElem hi, instrOfRow, hs, hj]

end Sys2Proof
end

