-- ==== Sys2Proof/Laws/Encode.lean ====
section
/-! SUPPORT. How the bit slices and the masks act on an encoded word: each distributes over the parts
the encoder ORs together, and picks out one of them. -/

namespace Sys2Proof

@[simp] theorem cutX_or (a b : Word) : cutX (a ||| b) = cutX a ||| cutX b := by
  apply BitVec.eq_of_getLsbD_eq; intro i hi; simp [cutX, hi]
@[simp] theorem cutY_or (a b : Word) : cutY (a ||| b) = cutY a ||| cutY b := by
  apply BitVec.eq_of_getLsbD_eq; intro i hi; simp [cutY, hi]
@[simp] theorem cutN_or (a b : Word) : cutN (a ||| b) = cutN a ||| cutN b := by
  apply BitVec.eq_of_getLsbD_eq; intro i hi; simp [cutN, hi]
@[simp] theorem cutKK_or (a b : Word) : cutKK (a ||| b) = cutKK a ||| cutKK b := by
  apply BitVec.eq_of_getLsbD_eq; intro i hi; simp [cutKK, hi]
@[simp] theorem cutNNN_or (a b : Word) : cutNNN (a ||| b) = cutNNN a ||| cutNNN b := by
  apply BitVec.eq_of_getLsbD_eq; intro i hi; simp [cutNNN, hi]

@[simp] theorem placeField_absent {n : Nat} (v : Option (BitVec n)) (sh : Nat) :
    placeField false v sh = 0 := rfl

@[simp] theorem cutX_placeX (x : Reg) : cutX (placeField true (some x) 8) = x := by
  apply BitVec.eq_of_getLsbD_eq; intro i hi; interval_cases i <;> simp [cutX, placeField]
@[simp] theorem cutX_placeY (y : Reg) : cutX (placeField true (some y) 4) = 0 := by
  apply BitVec.eq_of_getLsbD_eq; intro i hi; interval_cases i <;> simp [cutX, placeField]
@[simp] theorem cutX_placeN (n : Imm4) : cutX (placeField true (some n) 0) = 0 := by
  apply BitVec.eq_of_getLsbD_eq; intro i hi; interval_cases i <;> simp [cutX, placeField]
@[simp] theorem cutX_placeKK (kk : Imm8) : cutX (placeField true (some kk) 0) = 0 := by
  apply BitVec.eq_of_getLsbD_eq; intro i hi; interval_cases i <;> simp [cutX, placeField]
@[simp] theorem cutY_placeX (x : Reg) : cutY (placeField true (some x) 8) = 0 := by
  apply BitVec.eq_of_getLsbD_eq; intro i hi; interval_cases i <;> simp [cutY, placeField]
@[simp] theorem cutY_placeY (y : Reg) : cutY (placeField true (some y) 4) = y := by
  apply BitVec.eq_of_getLsbD_eq; intro i hi; interval_cases i <;> simp [cutY, placeField]
@[simp] theorem cutY_placeN (n : Imm4) : cutY (placeField true (some n) 0) = 0 := by
  apply BitVec.eq_of_getLsbD_eq; intro i hi; interval_cases i <;> simp [cutY, placeField]
@[simp] theorem cutN_placeX (x : Reg) : cutN (placeField true (some x) 8) = 0 := by
  apply BitVec.eq_of_getLsbD_eq; intro i hi; interval_cases i <;> simp [cutN, placeField]
@[simp] theorem cutN_placeY (y : Reg) : cutN (placeField true (some y) 4) = 0 := by
  apply BitVec.eq_of_getLsbD_eq; intro i hi; interval_cases i <;> simp [cutN, placeField]
@[simp] theorem cutN_placeN (n : Imm4) : cutN (placeField true (some n) 0) = n := by
  apply BitVec.eq_of_getLsbD_eq; intro i hi; interval_cases i <;> simp [cutN, placeField]
@[simp] theorem cutKK_placeX (x : Reg) : cutKK (placeField true (some x) 8) = 0 := by
  apply BitVec.eq_of_getLsbD_eq; intro i hi; interval_cases i <;> simp [cutKK, placeField]
@[simp] theorem cutKK_placeKK (kk : Imm8) : cutKK (placeField true (some kk) 0) = kk := by
  apply BitVec.eq_of_getLsbD_eq; intro i hi; interval_cases i <;> simp [cutKK, placeField]
@[simp] theorem cutNNN_placeNNN (nnn : Addr12) : cutNNN (placeField true (some nnn) 0) = nnn := by
  apply BitVec.eq_of_getLsbD_eq; intro i hi; interval_cases i <;> simp [cutNNN, placeField]

/-- A mask distributes over the parts of a word. -/
theorem mask_or (a b m : Word) : (a ||| b) &&& m = (a &&& m) ||| (b &&& m) := by
  apply BitVec.eq_of_getLsbD_eq; intro i hi
  simp [Bool.and_or_distrib_right]

/-- A register in bits 11..8 is outside every mask that has no bit there. -/
theorem placeX_mask (x : Reg) (m : Word) (h : m &&& 0x0F00 = 0) :
    placeField true (some x) 8 &&& m = 0 := by
  have hb : ∀ i : Nat, (m &&& (0x0F00 : Word)).getLsbD i = false := by intro i; rw [h]; simp
  apply BitVec.eq_of_getLsbD_eq; intro i hi
  have := hb i
  clear hb h
  interval_cases i <;> simp_all [placeField]
/-- A register in bits 7..4 is outside every mask that has no bit there. -/
theorem placeY_mask (y : Reg) (m : Word) (h : m &&& 0x00F0 = 0) :
    placeField true (some y) 4 &&& m = 0 := by
  have hb : ∀ i : Nat, (m &&& (0x00F0 : Word)).getLsbD i = false := by intro i; rw [h]; simp
  apply BitVec.eq_of_getLsbD_eq; intro i hi
  have := hb i
  clear hb h
  interval_cases i <;> simp_all [placeField]
/-- A nibble in bits 3..0 is outside every mask that has no bit there. -/
theorem placeN_mask (n : Imm4) (m : Word) (h : m &&& 0x000F = 0) :
    placeField true (some n) 0 &&& m = 0 := by
  have hb : ∀ i : Nat, (m &&& (0x000F : Word)).getLsbD i = false := by intro i; rw [h]; simp
  apply BitVec.eq_of_getLsbD_eq; intro i hi
  have := hb i
  clear hb h
  interval_cases i <;> simp_all [placeField]
/-- A byte in bits 7..0 is outside every mask that has no bit there. -/
theorem placeKK_mask (kk : Imm8) (m : Word) (h : m &&& 0x00FF = 0) :
    placeField true (some kk) 0 &&& m = 0 := by
  have hb : ∀ i : Nat, (m &&& (0x00FF : Word)).getLsbD i = false := by intro i; rw [h]; simp
  apply BitVec.eq_of_getLsbD_eq; intro i hi
  have := hb i
  clear hb h
  interval_cases i <;> simp_all [placeField]
/-- An address in bits 11..0 is outside every mask that has no bit there. -/
theorem placeNNN_mask (nnn : Addr12) (m : Word) (h : m &&& 0x0FFF = 0) :
    placeField true (some nnn) 0 &&& m = 0 := by
  have hb : ∀ i : Nat, (m &&& (0x0FFF : Word)).getLsbD i = false := by intro i; rw [h]; simp
  apply BitVec.eq_of_getLsbD_eq; intro i hi
  have := hb i
  clear hb h
  interval_cases i <;> simp_all [placeField]

/-- Cutting the address out of a word and putting it back at its opcode gives the word. -/
theorem opcode_or_cutNNN (w : Word) : (w &&& 0xF000) ||| (cutNNN w).setWidth 16 = w := by
  apply BitVec.eq_of_getLsbD_eq; intro i hi
  interval_cases i <;> simp [cutNNN]

end Sys2Proof
end

