-- ==== Sys2Proof/Laws/Masks.lean ====
section
/-! SUPPORT. The four masks of the default table as arithmetic on the word's number, so that which entry
hits which word is settled by linear arithmetic. The masks are spelt `0xF000#16`: rewrite a table's `0xF000` with
`BitVec.ofNat_eq_ofNat` first. -/

namespace Sys2Proof

theorem and_F000_eq_shift (w : Word) : w &&& 0xF000#16 = (w >>> 12) <<< 12 := by
  apply BitVec.eq_of_getLsbD_eq; intro i hi; interval_cases i <;> simp

theorem and_FF00_eq_shift (w : Word) : w &&& 0xFF00#16 = (w >>> 8) <<< 8 := by
  apply BitVec.eq_of_getLsbD_eq; intro i hi; interval_cases i <;> simp

/-- Mask `0xF000` keeps the opcode nibble. -/
theorem toNat_and_F000 (w : Word) : (w &&& 0xF000#16).toNat = w.toNat / 4096 * 4096 := by
  rw [and_F000_eq_shift]
  simp only [BitVec.toNat_shiftLeft, BitVec.toNat_ushiftRight, Nat.shiftLeft_eq,
    Nat.shiftRight_eq_div_pow]
  omega

/-- Mask `0xFF00` keeps the high byte. -/
theorem toNat_and_FF00 (w : Word) : (w &&& 0xFF00#16).toNat = w.toNat / 256 * 256 := by
  rw [and_FF00_eq_shift]
  simp only [BitVec.toNat_shiftLeft, BitVec.toNat_ushiftRight, Nat.shiftLeft_eq,
    Nat.shiftRight_eq_div_pow]
  omega

theorem toNat_and_000F (w : Word) : (w &&& 0x000F#16).toNat = w.toNat % 16 := by
  simpa using Nat.and_two_pow_sub_one_eq_mod w.toNat 4

theorem toNat_and_00FF (w : Word) : (w &&& 0x00FF#16).toNat = w.toNat % 256 := by
  simpa using Nat.and_two_pow_sub_one_eq_mod w.toNat 8

theorem and_F00F_eq_add (w : Word) :
    w &&& 0xF00F#16 = (w &&& 0xF000#16) + (w &&& 0x000F#16) := by
  rw [BitVec.add_eq_or_of_and_eq_zero]
  · apply BitVec.eq_of_getLsbD_eq; intro i hi; interval_cases i <;> simp
  · apply BitVec.eq_of_getLsbD_eq; intro i hi; interval_cases i <;> simp

theorem and_F0FF_eq_add (w : Word) :
    w &&& 0xF0FF#16 = (w &&& 0xF000#16) + (w &&& 0x00FF#16) := by
  rw [BitVec.add_eq_or_of_and_eq_zero]
  · apply BitVec.eq_of_getLsbD_eq; intro i hi; interval_cases i <;> simp
  · apply BitVec.eq_of_getLsbD_eq; intro i hi; interval_cases i <;> simp

/-- Mask `0xF00F` keeps the opcode nibble and the low nibble. -/
theorem toNat_and_F00F (w : Word) :
    (w &&& 0xF00F#16).toNat = w.toNat / 4096 * 4096 + w.toNat % 16 := by
  rw [and_F00F_eq_add, BitVec.toNat_add, toNat_and_F000, toNat_and_000F]
  omega

/-- Mask `0xF0FF` keeps the opcode nibble and the low byte. -/
theorem toNat_and_F0FF (w : Word) :
    (w &&& 0xF0FF#16).toNat = w.toNat / 4096 * 4096 + w.toNat % 256 := by
  rw [and_F0FF_eq_add, BitVec.toNat_add, toNat_and_F000, toNat_and_00FF]
  omega

/-- Mask `0xFFFF` keeps the whole word. -/
theorem toNat_and_FFFF (w : Word) : (w &&& 0xFFFF#16).toNat = w.toNat := by
  have : w &&& 0xFFFF#16 = w := by
    apply BitVec.eq_of_getLsbD_eq; intro i hi; interval_cases i <;> simp
  rw [this]

end Sys2Proof
end

