-- ==== Sys2Proof/Laws/State.lean ====
section
/-! SUPPORT. One lemma per field per update of the state, each true by definition. -/

namespace Sys2Proof.Machine

@[simp] theorem drive_wordI (s : State) (r : Result) : (s.drive r).wordI = s.wordI := rfl
@[simp] theorem drive_out (s : State) (r : Result) :
    (s.drive r).out = Ports.ofResult s.table r := rfl
@[simp] theorem drive_pending (s : State) (r : Result) : (s.drive r).pending = s.pending := rfl
@[simp] theorem drive_table (s : State) (r : Result) : (s.drive r).table = s.table := rfl
@[simp] theorem drive_vfReject (s : State) (r : Result) : (s.drive r).vfReject = s.vfReject := rfl
@[simp] theorem drive_illegalResponse (s : State) (r : Result) :
    (s.drive r).illegalResponse = s.illegalResponse := rfl

@[simp] theorem raiseIllegalOpcode_wordI (s : State) : s.raiseIllegalOpcode.wordI = s.wordI := rfl
@[simp] theorem raiseIllegalOpcode_out (s : State) :
    s.raiseIllegalOpcode.out = Ports.ofResult s.table .illegalOpcode := rfl
@[simp] theorem raiseIllegalOpcode_pending (s : State) :
    s.raiseIllegalOpcode.pending = s.pending := rfl
@[simp] theorem raiseIllegalOpcode_table (s : State) : s.raiseIllegalOpcode.table = s.table := rfl
@[simp] theorem raiseIllegalOpcode_vfReject (s : State) :
    s.raiseIllegalOpcode.vfReject = s.vfReject := rfl
@[simp] theorem raiseIllegalOpcode_illegalResponse (s : State) :
    s.raiseIllegalOpcode.illegalResponse = s.illegalResponse := rfl

@[simp] theorem present_out (s : State) : s.present.out = s.out := by
  unfold State.present; split <;> rfl
@[simp] theorem present_table (s : State) : s.present.table = s.table := by
  unfold State.present; split <;> rfl
@[simp] theorem present_vfReject (s : State) : s.present.vfReject = s.vfReject := by
  unfold State.present; split <;> rfl
@[simp] theorem present_illegalResponse (s : State) :
    s.present.illegalResponse = s.illegalResponse := by
  unfold State.present; split <;> rfl
@[simp] theorem present_pending (s : State) : s.present.pending = s.pending.tail := by
  unfold State.present; split <;> simp_all
@[simp] theorem present_wordI (s : State) : s.present.wordI = s.pending.headD s.wordI := by
  unfold State.present; split <;> simp_all

theorem present_cons {s : State} {w : Word} {ws : List Word} (h : s.pending = w :: ws) :
    s.present = { s with wordI := w, pending := ws } := by
  unfold State.present; rw [h]
theorem present_nil {s : State} (h : s.pending = []) : s.present = s := by
  unfold State.present; rw [h]

@[simp] theorem supply_wordI (s : State) (ws : List Word) : (s.supply ws).wordI = s.wordI := rfl
@[simp] theorem supply_out (s : State) (ws : List Word) : (s.supply ws).out = s.out := rfl
@[simp] theorem supply_pending (s : State) (ws : List Word) :
    (s.supply ws).pending = s.pending ++ ws := rfl
@[simp] theorem supply_table (s : State) (ws : List Word) : (s.supply ws).table = s.table := rfl
@[simp] theorem supply_vfReject (s : State) (ws : List Word) :
    (s.supply ws).vfReject = s.vfReject := rfl
@[simp] theorem supply_illegalResponse (s : State) (ws : List Word) :
    (s.supply ws).illegalResponse = s.illegalResponse := rfl

@[simp] theorem withFetchWord_wordI (s : State) (n w : Nat) :
    (s.withFetchWord n w).wordI = s.wordI := rfl
@[simp] theorem withFetchWord_out (s : State) (n w : Nat) : (s.withFetchWord n w).out = s.out := rfl
@[simp] theorem withFetchWord_pending (s : State) (n w : Nat) :
    (s.withFetchWord n w).pending = tableWord n w :: s.pending := rfl
@[simp] theorem withFetchWord_table (s : State) (n w : Nat) :
    (s.withFetchWord n w).table = s.table := rfl
@[simp] theorem withFetchWord_vfReject (s : State) (n w : Nat) :
    (s.withFetchWord n w).vfReject = s.vfReject := rfl
@[simp] theorem withFetchWord_illegalResponse (s : State) (n w : Nat) :
    (s.withFetchWord n w).illegalResponse = s.illegalResponse := rfl

end Sys2Proof.Machine
end

