-- ==== Sys2Proof/Laws/Ops.lean ====
section
/-! SUPPORT. One lemma per shared operation that says once everything it can do. -/

namespace Sys2Proof.Machine

/-- Delivering always answers a next state, in which only the outputs changed: those of IllegalOpcode
where the `VF` restriction fires, those of the decoded format otherwise. -/
theorem deliver_cases (i : Nat) (f : Fields) (s : State) :
    (operandsRejected s.table s.vfReject i f = true ∧ deliver i f s = .next (s.drive .illegalOpcode)) ∨
    (operandsRejected s.table s.vfReject i f = false ∧ deliver i f s = .next (s.drive (.decoded i f))) := by
  unfold deliver State.raiseIllegalOpcode
  cases operandsRejected s.table s.vfReject i f <;> simp

/-- Whatever is delivered, the next state is the old one with other outputs. -/
theorem deliver_drives (i : Nat) (f : Fields) (s : State) :
    ∃ r, deliver i f s = .next (s.drive r) := by
  obtain ⟨-, h⟩ | ⟨-, h⟩ := deliver_cases i f s
  · exact ⟨_, h⟩
  · exact ⟨_, h⟩

@[simp] theorem vfRefuses_nil (i s : Nat) (r : Reg) : vfRefuses [] i s r = false := rfl

/-- Without a restriction nothing is rejected (R109, the default). -/
@[simp] theorem operandsRejected_nil (T : Table) (i : Nat) (f : Fields) :
    operandsRejected T [] i f = false := by
  have h : ∀ (s : Nat) (o : Option Reg), o.any (vfRefuses [] i s) = false := by
    intro s o; cases o <;> rfl
  unfold operandsRejected
  split <;> simp [operandRejected, h]

/-- A halted engine stays where it is; a running one has the block answer the word it presents, by what
the word selects in the block's table. -/
theorem step_cases (s : State) :
    (s.engineHalted = true ∧ step s = .fault .illegalOpcode) ∨
    (s.engineHalted = false ∧ ∃ i, selectIn s.table s.present.wordI = .instr i ∧
      step s = exec i s.present) ∨
    (s.engineHalted = false ∧ ∃ i f, selectIn s.table s.present.wordI = .other i f ∧
      step s = deliver i f s.present) ∨
    (s.engineHalted = false ∧ selectIn s.table s.present.wordI = .noHit ∧
      step s = .next s.present.raiseIllegalOpcode) := by
  unfold step
  rw [present_table]
  cases s.engineHalted
  · cases h : selectIn s.table s.present.wordI with
    | noHit     => exact .inr (.inr (.inr ⟨rfl, rfl, by simp⟩))
    | instr i   => exact .inr (.inl ⟨rfl, i, rfl, by simp⟩)
    | other i f => exact .inr (.inr (.inl ⟨rfl, i, f, rfl, by simp⟩))
  · exact .inl ⟨rfl, by simp⟩

/-- Every instruction but `DB` delivers its own format id and operand fields. -/
theorem exec_eq_deliver (i : Instr) (s : State) (h : i.fmt ≠ 35) :
    exec i s = deliver i.fmt i.fields s := by
  cases i <;> first | rfl | exact absurd rfl h

/-- `DB` leaves the block as it was. -/
@[simp] theorem exec_db (kk : Imm8) (s : State) : exec (.db kk) s = .next s := rfl

end Sys2Proof.Machine
end

