-- ==== Sys2Proof/Laws/PerInstr.lean ====
section
/-! SUPPORT. Statements about every instruction as syntax, one lemma per constructor.
Family `OwnRow`: the word an instruction encodes to matches the instruction's own row, and the
extractor gives the instruction back from it. It says nothing of the rows that stand before. -/

namespace Sys2Proof.Laws.OwnRow

/-- The own-row property of an instruction. -/
def Statement (i : Instr) : Prop :=
  (∃ e, defaultTable[i.fmt]? = some e ∧ e.isMatch (encode i) = true)
    ∧ instrAt i.fmt (encode i) = some i

/-- An encoded word: a pattern and its five possible fields, as the encoder lays them. -/
abbrev parts (p : Word) (bx by' bn bk ba : Bool) (f : Fields) : Word :=
  p ||| placeField bx f.x 8 ||| placeField by' f.y 4 ||| placeField bn f.n 0
    ||| placeField bk f.kk 0 ||| placeField ba f.nnn 0

theorem layoutNNN (p : Word) (nnn : Addr12) (hp : p &&& 0xF000#16 = p) (h : cutNNN p = 0) :
    parts p false false false false true { nnn := some nnn } &&& 0xF000 = p
      ∧ cutNNN (parts p false false false false true { nnn := some nnn }) = nnn := by
  simp [parts, mask_or, hp, h, placeNNN_mask nnn 0xF000#16 (by decide)]

theorem layoutXKK (p : Word) (x : Reg) (kk : Imm8) (hp : p &&& 0xF000#16 = p) (hx : cutX p = 0)
    (hk : cutKK p = 0) :
    parts p true false false true false { x := some x, kk := some kk } &&& 0xF000 = p
      ∧ cutX (parts p true false false true false { x := some x, kk := some kk }) = x
      ∧ cutKK (parts p true false false true false { x := some x, kk := some kk }) = kk := by
  simp [parts, mask_or, hp, hx, hk, placeX_mask x 0xF000#16 (by decide),
    placeKK_mask kk 0xF000#16 (by decide)]

theorem layoutXY (p : Word) (x y : Reg) (hp : p &&& 0xF00F#16 = p) (hx : cutX p = 0)
    (hy : cutY p = 0) :
    parts p true true false false false { x := some x, y := some y } &&& 0xF00F = p
      ∧ cutX (parts p true true false false false { x := some x, y := some y }) = x
      ∧ cutY (parts p true true false false false { x := some x, y := some y }) = y := by
  simp [parts, mask_or, hp, hx, hy, placeX_mask x 0xF00F#16 (by decide),
    placeY_mask y 0xF00F#16 (by decide)]

theorem layoutXYN (p : Word) (x y : Reg) (n : Imm4) (hp : p &&& 0xF000#16 = p) (hx : cutX p = 0)
    (hy : cutY p = 0) (hn : cutN p = 0) :
    parts p true true true false false { x := some x, y := some y, n := some n } &&& 0xF000 = p
      ∧ cutX (parts p true true true false false { x := some x, y := some y, n := some n }) = x
      ∧ cutY (parts p true true true false false { x := some x, y := some y, n := some n }) = y
      ∧ cutN (parts p true true true false false { x := some x, y := some y, n := some n }) = n := by
  simp [parts, mask_or, hp, hx, hy, hn, placeX_mask x 0xF000#16 (by decide),
    placeY_mask y 0xF000#16 (by decide), placeN_mask n 0xF000#16 (by decide)]

theorem layoutX (p : Word) (x : Reg) (hp : p &&& 0xF0FF#16 = p) (hx : cutX p = 0) :
    parts p true false false false false { x := some x } &&& 0xF0FF = p
      ∧ cutX (parts p true false false false false { x := some x }) = x := by
  simp [parts, mask_or, hp, hx, placeX_mask x 0xF0FF#16 (by decide)]

theorem layoutKK (p : Word) (kk : Imm8) (hp : p &&& 0xFF00#16 = p) (hk : cutKK p = 0) :
    parts p false false false true false { kk := some kk } &&& 0xFF00 = p
      ∧ cutKK (parts p false false false true false { kk := some kk }) = kk := by
  simp [parts, mask_or, hp, hk, placeKK_mask kk 0xFF00#16 (by decide)]

/-- The own-row property from the mask equation and the extracted instruction. -/
theorem intro_row {i : Instr} {e : Entry} (hrow : defaultTable[i.fmt]? = some e)
    (hm : encode i &&& e.mask = e.pattern) (hi : instrAt i.fmt (encode i) = some i) : Statement i :=
  ⟨⟨e, hrow, isMatch_iff.2 hm⟩, hi⟩

theorem cls : Statement .cls := intro_row rfl (by decide) rfl
theorem ret : Statement .ret := intro_row rfl (by decide) rfl
theorem sys (nnn : Addr12) : Statement (.sys nnn) := by
  have h := layoutNNN 0x0000 nnn (by decide) (by decide)
  exact intro_row rfl h.1 (congrArg (fun a => some (Instr.sys a)) h.2)
theorem jp (nnn : Addr12) : Statement (.jp nnn) := by
  have h := layoutNNN 0x1000 nnn (by decide) (by decide)
  exact intro_row rfl h.1 (congrArg (fun a => some (Instr.jp a)) h.2)
theorem call (nnn : Addr12) : Statement (.call nnn) := by
  have h := layoutNNN 0x2000 nnn (by decide) (by decide)
  exact intro_row rfl h.1 (congrArg (fun a => some (Instr.call a)) h.2)
theorem seByte (x : Reg) (kk : Imm8) : Statement (.seByte x kk) := by
  have h := layoutXKK 0x3000 x kk (by decide) (by decide) (by decide)
  exact intro_row rfl h.1 (congrArg₂ (fun a b => some (Instr.seByte a b)) h.2.1 h.2.2)
theorem sneByte (x : Reg) (kk : Imm8) : Statement (.sneByte x kk) := by
  have h := layoutXKK 0x4000 x kk (by decide) (by decide) (by decide)
  exact intro_row rfl h.1 (congrArg₂ (fun a b => some (Instr.sneByte a b)) h.2.1 h.2.2)
theorem seReg (x : Reg) (y : Reg) : Statement (.seReg x y) := by
  have h := layoutXY 0x5000 x y (by decide) (by decide) (by decide)
  exact intro_row rfl h.1 (congrArg₂ (fun a b => some (Instr.seReg a b)) h.2.1 h.2.2)
theorem ldByte (x : Reg) (kk : Imm8) : Statement (.ldByte x kk) := by
  have h := layoutXKK 0x6000 x kk (by decide) (by decide) (by decide)
  exact intro_row rfl h.1 (congrArg₂ (fun a b => some (Instr.ldByte a b)) h.2.1 h.2.2)
theorem addByte (x : Reg) (kk : Imm8) : Statement (.addByte x kk) := by
  have h := layoutXKK 0x7000 x kk (by decide) (by decide) (by decide)
  exact intro_row rfl h.1 (congrArg₂ (fun a b => some (Instr.addByte a b)) h.2.1 h.2.2)
theorem ldReg (x : Reg) (y : Reg) : Statement (.ldReg x y) := by
  have h := layoutXY 0x8000 x y (by decide) (by decide) (by decide)
  exact intro_row rfl h.1 (congrArg₂ (fun a b => some (Instr.ldReg a b)) h.2.1 h.2.2)
theorem orReg (x : Reg) (y : Reg) : Statement (.orReg x y) := by
  have h := layoutXY 0x8001 x y (by decide) (by decide) (by decide)
  exact intro_row rfl h.1 (congrArg₂ (fun a b => some (Instr.orReg a b)) h.2.1 h.2.2)
theorem andReg (x : Reg) (y : Reg) : Statement (.andReg x y) := by
  have h := layoutXY 0x8002 x y (by decide) (by decide) (by decide)
  exact intro_row rfl h.1 (congrArg₂ (fun a b => some (Instr.andReg a b)) h.2.1 h.2.2)
theorem xorReg (x : Reg) (y : Reg) : Statement (.xorReg x y) := by
  have h := layoutXY 0x8003 x y (by decide) (by decide) (by decide)
  exact intro_row rfl h.1 (congrArg₂ (fun a b => some (Instr.xorReg a b)) h.2.1 h.2.2)
theorem addReg (x : Reg) (y : Reg) : Statement (.addReg x y) := by
  have h := layoutXY 0x8004 x y (by decide) (by decide) (by decide)
  exact intro_row rfl h.1 (congrArg₂ (fun a b => some (Instr.addReg a b)) h.2.1 h.2.2)
theorem subReg (x : Reg) (y : Reg) : Statement (.subReg x y) := by
  have h := layoutXY 0x8005 x y (by decide) (by decide) (by decide)
  exact intro_row rfl h.1 (congrArg₂ (fun a b => some (Instr.subReg a b)) h.2.1 h.2.2)
theorem shrReg (x : Reg) (y : Reg) : Statement (.shrReg x y) := by
  have h := layoutXY 0x8006 x y (by decide) (by decide) (by decide)
  exact intro_row rfl h.1 (congrArg₂ (fun a b => some (Instr.shrReg a b)) h.2.1 h.2.2)
theorem subnReg (x : Reg) (y : Reg) : Statement (.subnReg x y) := by
  have h := layoutXY 0x8007 x y (by decide) (by decide) (by decide)
  exact intro_row rfl h.1 (congrArg₂ (fun a b => some (Instr.subnReg a b)) h.2.1 h.2.2)
theorem shlReg (x : Reg) (y : Reg) : Statement (.shlReg x y) := by
  have h := layoutXY 0x800E x y (by decide) (by decide) (by decide)
  exact intro_row rfl h.1 (congrArg₂ (fun a b => some (Instr.shlReg a b)) h.2.1 h.2.2)
theorem sneReg (x : Reg) (y : Reg) : Statement (.sneReg x y) := by
  have h := layoutXY 0x9000 x y (by decide) (by decide) (by decide)
  exact intro_row rfl h.1 (congrArg₂ (fun a b => some (Instr.sneReg a b)) h.2.1 h.2.2)
theorem ldI (nnn : Addr12) : Statement (.ldI nnn) := by
  have h := layoutNNN 0xA000 nnn (by decide) (by decide)
  exact intro_row rfl h.1 (congrArg (fun a => some (Instr.ldI a)) h.2)
theorem jpV0 (nnn : Addr12) : Statement (.jpV0 nnn) := by
  have h := layoutNNN 0xB000 nnn (by decide) (by decide)
  exact intro_row rfl h.1 (congrArg (fun a => some (Instr.jpV0 a)) h.2)
theorem rnd (x : Reg) (kk : Imm8) : Statement (.rnd x kk) := by
  have h := layoutXKK 0xC000 x kk (by decide) (by decide) (by decide)
  exact intro_row rfl h.1 (congrArg₂ (fun a b => some (Instr.rnd a b)) h.2.1 h.2.2)
theorem drw (x : Reg) (y : Reg) (n : Imm4) : Statement (.drw x y n) := by
  have h := layoutXYN 0xD000 x y n (by decide) (by decide) (by decide) (by decide)
  exact intro_row rfl h.1 (by simp only [instrAt, Instr.fmt]; exact congrArg some (congr (congrArg₂ Instr.drw h.2.1 h.2.2.1) h.2.2.2))
theorem skp (x : Reg) : Statement (.skp x) := by
  have h := layoutX 0xE09E x (by decide) (by decide)
  exact intro_row rfl h.1 (congrArg (fun a => some (Instr.skp a)) h.2)
theorem sknp (x : Reg) : Statement (.sknp x) := by
  have h := layoutX 0xE0A1 x (by decide) (by decide)
  exact intro_row rfl h.1 (congrArg (fun a => some (Instr.sknp a)) h.2)
theorem ldVxDt (x : Reg) : Statement (.ldVxDt x) := by
  have h := layoutX 0xF007 x (by decide) (by decide)
  exact intro_row rfl h.1 (congrArg (fun a => some (Instr.ldVxDt a)) h.2)
theorem ldVxK (x : Reg) : Statement (.ldVxK x) := by
  have h := layoutX 0xF00A x (by decide) (by decide)
  exact intro_row rfl h.1 (congrArg (fun a => some (Instr.ldVxK a)) h.2)
theorem ldDtVx (x : Reg) : Statement (.ldDtVx x) := by
  have h := layoutX 0xF015 x (by decide) (by decide)
  exact intro_row rfl h.1 (congrArg (fun a => some (Instr.ldDtVx a)) h.2)
theorem ldStVx (x : Reg) : Statement (.ldStVx x) := by
  have h := layoutX 0xF018 x (by decide) (by decide)
  exact intro_row rfl h.1 (congrArg (fun a => some (Instr.ldStVx a)) h.2)
theorem addIVx (x : Reg) : Statement (.addIVx x) := by
  have h := layoutX 0xF01E x (by decide) (by decide)
  exact intro_row rfl h.1 (congrArg (fun a => some (Instr.addIVx a)) h.2)
theorem ldFVx (x : Reg) : Statement (.ldFVx x) := by
  have h := layoutX 0xF029 x (by decide) (by decide)
  exact intro_row rfl h.1 (congrArg (fun a => some (Instr.ldFVx a)) h.2)
theorem ldBVx (x : Reg) : Statement (.ldBVx x) := by
  have h := layoutX 0xF033 x (by decide) (by decide)
  exact intro_row rfl h.1 (congrArg (fun a => some (Instr.ldBVx a)) h.2)
theorem ldIndVx (x : Reg) : Statement (.ldIndVx x) := by
  have h := layoutX 0xF055 x (by decide) (by decide)
  exact intro_row rfl h.1 (congrArg (fun a => some (Instr.ldIndVx a)) h.2)
theorem ldVxInd (x : Reg) : Statement (.ldVxInd x) := by
  have h := layoutX 0xF065 x (by decide) (by decide)
  exact intro_row rfl h.1 (congrArg (fun a => some (Instr.ldVxInd a)) h.2)
theorem db (kk : Imm8) : Statement (.db kk) := by
  have h := layoutKK 0x0000 kk (by decide) (by decide)
  exact intro_row rfl h.1 (congrArg (fun a => some (Instr.db a)) h.2)

end Sys2Proof.Laws.OwnRow
end

