-- ==== Sys2Proof/Tests/Slice0.lean ====
section
/-! SUPPORT. The model's own tests. Expected values come from `95_test_vectors.md` (section and row in
each docstring) or from the encodings of `30_encoding.md` R78; the theorems named witness_… show that
the hypotheses of the statements can be met. -/

namespace Sys2Proof.Tests
open Sys2Proof Sys2Proof.Machine

/-! ## WellFormed: each check refuses an ill-formed term -/

/-- `SYS 0x0E0` is the word of CLS, `SYS 0x0EE` that of RET, and DB is no decoded instruction; the
neighbours are well-formed (95 section 2.5, R132). -/
theorem test_wellFormed_refuses : Instr.wellFormed (.sys 0x0E0) = false
    ∧ Instr.wellFormed (.sys 0x0EE) = false ∧ Instr.wellFormed (.db 0x3C) = false
    ∧ Instr.wellFormed (.sys 0x0E1) = true ∧ Instr.wellFormed (.sys 0x0ED) = true := by decide

/-- A pattern bit outside the mask (R77 (a)). -/
theorem test_patternInMask_refuses :
    Entry.patternInMask ⟨"BAD", 0x1001, 0xF000, .machine, .none, .none, .none⟩ = false := by decide

/-- An address operand on an opcode bit (R77 (b)). -/
theorem test_fieldsOffMask_refuses :
    Entry.fieldsOffMask ⟨"BAD", 0x1000, 0xF001, .machine, .addr12, .none, .none⟩ = false := by decide

/-- Overlapping fields in each pair of slots, and the same keyword twice (R77 (c)). -/
theorem test_slotsDisjoint_refuses :
    Entry.slotsDisjoint ⟨"BAD", 0, 0xF000, .machine, .regHi, .addr12, .none⟩ = false
    ∧ Entry.slotsDisjoint ⟨"BAD", 0, 0xF000, .machine, .imm4, .none, .imm8⟩ = false
    ∧ Entry.slotsDisjoint ⟨"BAD", 0, 0xF000, .machine, .none, .regLo, .imm8⟩ = false
    ∧ Entry.slotsDisjoint ⟨"BAD", 0, 0xF000, .machine, .index, .index, .none⟩ = false
    ∧ Entry.slotsDisjoint ⟨"BAD", 0, 0xF000, .machine, .index, .none, .index⟩ = false
    ∧ Entry.slotsDisjoint ⟨"BAD", 0, 0xF000, .machine, .none, .index, .index⟩ = false := by decide

/-- No entry, and a table too long for its port (R77 (e)). -/
theorem test_fitsPort_refuses : Table.fitsPort [] (Config.fidW 0) = false
    ∧ Table.fitsPort defaultTable 5 = false
    ∧ Table.fitsPort defaultTable (Config.fidW defaultTable.length) = true := by decide

/-- Fields that do not suit the entry: one missing, one too many (R74). -/
theorem test_suits_refuses :
    Entry.suits ⟨"LD", 0x6000, 0xF000, .machine, .regHi, .imm8, .none⟩ { x := some 1 } = false
    ∧ Entry.suits ⟨"SKP", 0xE09E, 0xF0FF, .machine, .regHi, .none, .none⟩
        { x := some 1, y := some 2 } = false := by decide

/-! ## Tables of 95 section 2.8 -/

/-- Table `T2`. -/
def t2 : Table := [
  ⟨"NARROW", 0xD000, 0xF00F, .machine, .regHi, .regLo, .none⟩,
  ⟨"WIDE", 0xD000, 0xF000, .machine, .regHi, .regLo, .imm4⟩,
  ⟨"DC", 0xE000, 0xF0F0, .machine, .regHi, .none, .none⟩,
  ⟨"ANY", 0x0000, 0x0000, .pseudo, .addr12, .none, .none⟩]

/-- Table `T2'`: the first two entries of `T2` exchanged. -/
def t2' : Table := [
  ⟨"WIDE", 0xD000, 0xF000, .machine, .regHi, .regLo, .imm4⟩,
  ⟨"NARROW", 0xD000, 0xF00F, .machine, .regHi, .regLo, .none⟩,
  ⟨"DC", 0xE000, 0xF0F0, .machine, .regHi, .none, .none⟩,
  ⟨"ANY", 0x0000, 0x0000, .pseudo, .addr12, .none, .none⟩]

/-- The rows of `T2` with the spec's rule: narrow before wide, don't-care bits, the pseudo entry left out. -/
theorem test_t2_decodes :
    decodeWith true t2 [] 0xD120 = .decoded 0 { x := some 1, y := some 2 }
    ∧ decodeWith true t2 [] 0xD125 = .decoded 1 { x := some 1, y := some 2, n := some 5 }
    ∧ decodeWith true t2 [] 0xE300 = .decoded 2 { x := some 3 }
    ∧ decodeWith true t2 [] 0xE30F = .decoded 2 { x := some 3 }
    ∧ decodeWith true t2 [] 0xE310 = .illegalOpcode
    ∧ decodeWith true t2 [] 0x0000 = .illegalOpcode := by decide

/-- The last column of `T2`: what testing pseudo entries would give (not the spec's rule). -/
theorem test_t2_pseudo_tested :
    decodeWith false t2 [] 0xE310 = .decoded 3 { nnn := some 0x310 }
    ∧ decodeWith false t2 [] 0xFFFF = .decoded 3 { nnn := some 0xFFF } := by decide

/-- Under `T2'` the wide entry takes the narrow one's word. -/
theorem test_t2'_decodes :
    decodeWith true t2' [] 0xD120 = .decoded 0 { x := some 1, y := some 2, n := some 0 }
    ∧ decodeWith true t2' [] 0xD125 = .decoded 0 { x := some 1, y := some 2, n := some 5 } := by decide

/-- `T2'` breaks the ordering invariant: its `NARROW` refines the entry before it (R23). -/
theorem test_t2'_not_ordered : ¬ Table.ordered t2' := fun h =>
  absurd (h 1 0 _ _ rfl rfl (by decide) (by decide)) (by decide)

/-- `NARROW` is fully shadowed in `T2'`: it wins no word (R77 (d)). -/
theorem test_t2'_narrow_unreachable : ¬ Table.reachable t2' 1 := by
  rintro ⟨w, h1, h0⟩
  have h0 := h0 0 (by decide)
  have h1 : w &&& 0xF00F#16 = 0xD000#16 := by simpa [hitAt, t2', Entry.hit, Entry.isMatch] using h1
  have h0 : ¬ w &&& 0xF000#16 = 0xD000#16 := by simpa [hitAt, t2', Entry.hit, Entry.isMatch] using h0
  apply h0
  have : (w &&& 0xF00F#16) &&& 0xF000#16 = w &&& 0xF000#16 := by rw [BitVec.and_assoc]; rfl
  rw [← this, h1]; rfl

/-! ## Decoding: a word of every instruction, written from R78's layouts (95 section 2.2) -/

theorem test_decode_flow : decodeWord 0x00E0 = some .cls ∧ decodeWord 0x00EE = some .ret
    ∧ decodeWord 0x02F0 = some (.sys 0x2F0) ∧ decodeWord 0x12F0 = some (.jp 0x2F0)
    ∧ decodeWord 0x2FFF = some (.call 0xFFF) ∧ decodeWord 0xB2F0 = some (.jpV0 0x2F0) := by decide

theorem test_decode_regImm : decodeWord 0x3A4C = some (.seByte 10 0x4C)
    ∧ decodeWord 0x4FFF = some (.sneByte 15 0xFF) ∧ decodeWord 0x63FF = some (.ldByte 3 0xFF)
    ∧ decodeWord 0x7A4C = some (.addByte 10 0x4C) ∧ decodeWord 0xCA4C = some (.rnd 10 0x4C) := by
  decide

theorem test_decode_regReg : decodeWord 0x5A30 = some (.seReg 10 3)
    ∧ decodeWord 0x8A30 = some (.ldReg 10 3) ∧ decodeWord 0x8A31 = some (.orReg 10 3)
    ∧ decodeWord 0x8A32 = some (.andReg 10 3) ∧ decodeWord 0x8A33 = some (.xorReg 10 3)
    ∧ decodeWord 0x8A34 = some (.addReg 10 3) ∧ decodeWord 0x8A35 = some (.subReg 10 3)
    ∧ decodeWord 0x8A36 = some (.shrReg 10 3) ∧ decodeWord 0x8A37 = some (.subnReg 10 3)
    ∧ decodeWord 0x8A3E = some (.shlReg 10 3) ∧ decodeWord 0x9A30 = some (.sneReg 10 3) := by decide

theorem test_decode_indexDrawKey : decodeWord 0xA2F0 = some (.ldI 0x2F0)
    ∧ decodeWord 0xDA35 = some (.drw 10 3 5) ∧ decodeWord 0xEA9E = some (.skp 10)
    ∧ decodeWord 0xEAA1 = some (.sknp 10) := by decide

theorem test_decode_keyword : decodeWord 0xFA07 = some (.ldVxDt 10)
    ∧ decodeWord 0xFA0A = some (.ldVxK 10) ∧ decodeWord 0xFA15 = some (.ldDtVx 10)
    ∧ decodeWord 0xFA18 = some (.ldStVx 10) ∧ decodeWord 0xFA1E = some (.addIVx 10)
    ∧ decodeWord 0xFA29 = some (.ldFVx 10) ∧ decodeWord 0xFA33 = some (.ldBVx 10)
    ∧ decodeWord 0xFA55 = some (.ldIndVx 10) ∧ decodeWord 0xFA65 = some (.ldVxInd 10) := by decide

/-- DB's row reads the byte from bits 7..0; no word selects it (R190). -/
theorem test_db_row : instrAt 35 0x003C = some (.db 0x3C) ∧ decodeWord 0x003C = some (.sys 0x03C) := by
  decide

/-- Illegal words beside their neighbours (95 section 2.3). -/
theorem test_decode_nearMisses : decodeWord 0x512F = none ∧ decodeWord 0x812D = none
    ∧ decodeWord 0x9AB1 = none ∧ decodeWord 0xE19D = none ∧ decodeWord 0xE1A0 = none
    ∧ decodeWord 0xF106 = none ∧ decodeWord 0xF130 = none ∧ decodeWord 0xFFFF = none
    ∧ decodeWord 0x00FF = some (.sys 0x0FF) ∧ decodeWord 0x10E0 = some (.jp 0x0E0) := by decide

/-- Bytes: most significant first, exactly two, rejected by name (R42, R60). -/
theorem test_decode_bytes :
    decode [0x63, 0xFF, 0x10] = .ok (.ldByte 3 0xFF, [0x10])
    ∧ decode [0x63] = .error .noWholeWord ∧ decode [0xFF, 0xFF] = .error .illegalOpcode
    ∧ decodeTableWord 16 0xDA35 = some (.drw 10 3 5) := by decide

/-- The encoder's rows (95 section 2.5). -/
theorem test_encode : encode (.jp 0xABC) = 0x1ABC ∧ encode (.ldByte 3 0xFF) = 0x63FF
    ∧ encode (.addReg 1 2) = 0x8124 ∧ encode (.shlReg 15 15) = 0x8FFE
    ∧ encode (.drw 10 11 12) = 0xDABC ∧ encode (.jpV0 0x300) = 0xB300
    ∧ encode (.ldVxInd 7) = 0xF765 ∧ encode (.ldDtVx 0) = 0xF015 ∧ encode (.sys 0xE0) = 0x00E0
    ∧ encodeBytes (.db 0x3C) = [0x3C] ∧ encodeBytes (.ldI 6) = [0xA0, 0x06] := by decide

/-! ## Steps on a small state -/

/-- The machine after reset, with words waiting, a `VF_REJECT` and a response. -/
def start (ws : List Word) (vr : VfReject := []) (r : IllegalResponse := .halt) : State :=
  { State.reset with pending := ws, vfReject := vr, illegalResponse := r }

/-- The outputs after one step, where there is a next state. -/
def outAfter (s : State) : Option Ports :=
  match step s with
  | .next t => some t.out
  | .fault _ => none
  | .refused _ => none

/-- A table of 70 entries of which none matches: the id of IllegalOpcode is 70 on a port of 7 bits, not cut
to 6 (R5, R32). -/
theorem test_wide_id :
    (blockOutputs (List.replicate 70 ⟨"BAD", 0x0001, 0x0000, .machine, .none, .none, .none⟩) [] 0).fmtO = 70
    ∧ Config.fidW 70 = 7 ∧ Config.fidW 36 = 6 := by decide

/-- A step of the block built with `T2` (95 section 2.8): its own entries are delivered with their ids and
kinds, and its IllegalOpcode has the id 4. -/
theorem test_step_t2 :
    outAfter { start [0xD125] with table := t2 } = some (Expected.xyn 1 1 2 5)
    ∧ outAfter { start [0xE30F] with table := t2 } = some (Expected.x 2 1 0 3)
    ∧ outAfter { start [0xE310] with table := t2 } = some { Expected.illegal with fmtO := 4 } := by decide

/-- The port rows of 95 section 2.7. -/
theorem test_ports :
    outAfter (start [0x63FF]) = some (Expected.xkk 8 3 0xFF)
    ∧ outAfter (start [0x1000]) = some (Expected.nnn 3 12 0 0)
    ∧ outAfter (start [0xDA35]) = some (Expected.xyn 23 10 3 5)
    ∧ outAfter (start [0xF315]) = some (Expected.x 28 4 1 3)
    ∧ outAfter (start [0xB2F0]) = some (Expected.nnn 21 3 12 0x2F0)
    ∧ outAfter (start [0x00E0]) = some (Expected.op 0)
    ∧ outAfter (start [0xFFFF]) = some Expected.illegal := by decide

/-- The rows of 95 section 2.6: only slot 0 of entry 14 refuses `VF`. -/
theorem test_vfReject :
    outAfter (start [0x8E14] [(14, 0)]) = some (Expected.xy 14 14 1)
    ∧ outAfter (start [0x8F14] [(14, 0)]) = some Expected.illegal
    ∧ outAfter (start [0x81F4] [(14, 0)]) = some (Expected.xy 14 1 15)
    ∧ outAfter (start [0x8F15] [(14, 0)]) = some (Expected.xy 15 15 1)
    ∧ outAfter (start [0x7F01] [(14, 0)]) = some (Expected.xkk 9 15 1)
    ∧ outAfter (start [0x8FF4]) = some (Expected.xy 14 15 15) := by decide

/-- The host's placing of a word: the very next step runs it. -/
theorem test_withFetchWord :
    outAfter (State.reset.withFetchWord 16 0xE19E) = some (Expected.x 24 1 0 1) := by decide

/-- The outputs at the end of a run, or the fault that ended it. -/
def ended (o : Host.Outcome State Fault Refusal) : Ports ⊕ Option Fault :=
  match o with
  | .next t => .inl t.out
  | .fault r => .inr (some r)
  | .refused _ => .inr none

/-- Two steps of program P5 (95 section 3): after the illegal word 0x8AB8 the halted engine faults, and the
one that goes on has CLS answered. -/
theorem test_p5 :
    ended (Host.Core.run core 2 (start [0x8AB8, 0x00E0])) = .inr (some .illegalOpcode)
    ∧ ended (Host.Core.run core 2 (start [0x8AB8, 0x00E0] [] .goOn)) = .inl (Expected.op 0) := by
  decide

/-- Program P3's image (95 section 3): its six words, and what a fetch at the odd offset 13 gives. -/
theorem test_p3_image :
    (imageWords [0xA0, 0x06, 0x62, 0x7B, 0xF2, 0x33, 0xF2, 0x65, 0xD0, 0x15, 0x10, 0x05, 0x12]).map
        decodeWord
      = [some (.ldI 6), some (.ldByte 2 0x7B), some (.ldBVx 2), some (.ldVxInd 2),
          some (.drw 0 1 5), some (.jp 5)]
    ∧ fetchWord [0x10, 0x05, 0x12, 0x34, 0xFF] 3 = some 0x34FF
    ∧ fetchWord [0x10, 0x05, 0x12, 0x34, 0xFF] 4 = none := by decide

/-- The names of R24 and R29, and the engine's supply of words at the end of the queue. -/
theorem test_names_supply : keyword .indexInd = some "[I]" ∧ keyword .regHi = none
    ∧ registerName 9 = "V9" ∧ registerName 15 = "VF"
    ∧ (start [0x1000]).supply [0x00E0] = start [0x1000, 0x00E0] := by decide

/-! ## Witnesses: the hypotheses of the statements can be met -/

/-- A halted machine: it shows IllegalOpcode and the engine's response is to halt. -/
def halted : State := { start [0x1000] with out := Expected.illegal }

theorem witness_StepRunsTheDecodedInstruction :
    (start [0x63FF]).running ∧ (start [0x63FF]).table = defaultTable ∧ decodeWord 0x63FF = some (.ldByte 3 0xFF)
    ∧ (start [0xFFFF]).running ∧ decodeWord 0xFFFF = none
    ∧ (start []).running ∧ (start []).pending = [] ∧ decodeWord (start []).wordI = some (.sys 0)
    ∧ ({ start [] with wordI := 0xF0FF }).running
    ∧ decodeWord ({ start [] with wordI := 0xF0FF }).wordI = none := by decide

theorem witness_FetchedWordIsRunByTheNextStep :
    State.reset.running ∧ State.reset.table = defaultTable ∧ decodeTableWord 16 0x9FF0 = some (.sneReg 15 15)
    ∧ decodeTableWord 16 0x9FF1 = none := by decide

theorem witness_ClsAndRetDeliverTheirFormatAlone : (start [0x1000]).table = defaultTable := rfl

theorem witness_AddressFormatsDeliverTheAddress : (start [0x1000]).table = defaultTable := rfl

theorem witness_RegisterByteFormatsDeliverRegisterAndByte :
    (start []).table = defaultTable ∧ (∀ i, (start [] [(i, 0)]).table = defaultTable)
    ∧ (∀ i ∈ [5, 6, 8, 9, 22], ¬ Expected.refused (start []).vfReject i 0 15)
    ∧ ∀ i ∈ [5, 6, 8, 9, 22], ¬ Expected.refused (start [] [(i, 0)]).vfReject i 0 14 :=
  ⟨rfl, fun _ => rfl, by decide, by decide⟩

theorem witness_RegisterRegisterFormatsDeliverBothRegisters :
    (start []).table = defaultTable ∧ (∀ i, (start [] [(i, 0)]).table = defaultTable)
    ∧ (∀ i ∈ [7, 10, 11, 12, 13, 14, 15, 16, 17, 18, 19],
      ¬ Expected.refused (start []).vfReject i 0 15 ∧ ¬ Expected.refused (start []).vfReject i 1 15)
    ∧ ∀ i ∈ [7, 10, 11, 12, 13, 14, 15, 16, 17, 18, 19],
      ¬ Expected.refused (start [] [(i, 0)]).vfReject i 0 14
        ∧ ¬ Expected.refused (start [] [(i, 0)]).vfReject i 1 15 :=
  ⟨rfl, fun _ => rfl, by decide, by decide⟩

theorem witness_DrwDeliversBothRegistersAndNibble :
    (start [] [(23, 1)]).table = defaultTable
    ∧ ¬ Expected.refused (start [] [(23, 1)]).vfReject 23 0 15
    ∧ ¬ Expected.refused (start [] [(23, 1)]).vfReject 23 1 14 := by decide

theorem witness_SingleRegisterFormatsDeliverTheRegister :
    (start []).table = defaultTable
    ∧ (∀ p ∈ [(24, 0), (25, 0), (26, 0), (27, 0), (28, 1), (29, 1), (30, 1), (31, 1), (32, 1), (33, 1),
        (34, 0)], ¬ Expected.refused (start []).vfReject p.1 p.2 15) := by decide

theorem witness_DbIsNeverDecodedAndChangesNothing :
    (0x00FF : Word).toNat ≤ 0x00FF ∧ (0x0000 : Word).toNat ≤ 0x00FF := by decide

theorem witness_RefusedRegisterOperandIsIllegalOpcode :
    (start [] [(14, 0)]).table = defaultTable ∧ (start [] [(28, 1)]).table = defaultTable
    ∧ ((14, 0, 15) ∈ Expected.registerSlots (.addReg 15 1)
      ∧ Expected.refused (start [] [(14, 0)]).vfReject 14 0 15)
    ∧ ((28, 1, 15) ∈ Expected.registerSlots (.ldDtVx 15)
      ∧ Expected.refused (start [] [(28, 1)]).vfReject 28 1 15) := by decide

theorem witness_StepIsTheWholeDecodeFunction : (start [0xFFFF]).running ∧ (start []).running
    ∧ ({ start [0xD125] with table := t2 }).running := by decide

/-- The reset outputs are sound. -/
theorem reset_sound : State.reset.out.sound 36 := by constructor <;> decide

theorem witness_StepKeepsOutputsCombinationalAndSound :
    State.reset.combinational ∧ State.reset.out.sound State.reset.table.length ∧ step State.reset = .next State.reset :=
  ⟨by decide, reset_sound, rfl⟩

theorem witness_StepTakesOneWordAndKeepsTheParameters :
    step (start [0x00E0, 0x1000])
      = .next { start [0x1000] with wordI := 0x00E0, out := Expected.op 0 } := rfl

/-- Two states that differ in what they show, both with a next state (`outAfter` is `none` elsewhere). -/
theorem witness_EarlierOutputsDoNotInfluenceTheNext :
    let a := start [0x00E0]
    let b : State := { start [0x00E0] [] .goOn with out := Expected.illegal }
    a.wordI = b.wordI ∧ a.pending = b.pending ∧ a.table = b.table ∧ a.vfReject = b.vfReject ∧ a.out ≠ b.out
      ∧ outAfter a = some (Expected.op 0) ∧ outAfter b = some (Expected.op 0) := by decide

/-- CLS put on the input of the reset machine. -/
def clsShown : State := { start [] with wordI := 0x00E0, out := Expected.op 0 }

theorem step_clsShown : step (start [0x00E0]) = .next clsShown := rfl

theorem witness_DecodingTheHeldWordAgainChangesNothing :
    step (start [0x00E0]) = .next clsShown ∧ clsShown.running ∧ clsShown.pending = [] :=
  ⟨step_clsShown, by decide, by decide⟩

theorem witness_IllegalOpcodeHaltsOrGoesOnByTheParameter :
    halted.out.illegalO = true ∧ halted.illegalResponse = .halt
    ∧ (start [] [] .goOn).illegalResponse = .goOn ∧ (start []).out.illegalO = false := by decide

theorem legalWord_6A01 : legalWord defaultTable [] 0x6A01 = true := rfl

theorem legalWord_8AB8 : legalWord defaultTable [] 0x8AB8 = false := rfl

theorem witness_StreamIsAnsweredUntilTheFirstIllegalWord :
    (start [0x6A01, 0x8AB8, 0x00E0]).running
    ∧ (start [0x6A01, 0x8AB8, 0x00E0]).pending = [0x6A01] ++ 0x8AB8 :: [0x00E0]
    ∧ (∀ v ∈ ([0x6A01] : List Word), legalWord defaultTable [] v = true) ∧ legalWord defaultTable [] 0x8AB8 = false
    ∧ (start [0x6A01, 0x8AB8, 0x00E0]).illegalResponse = .halt
    ∧ (start [0xFFFF, 0x00E0] [] .goOn).illegalResponse = .goOn :=
  ⟨rfl, rfl, fun _ hv => List.mem_singleton.1 hv ▸ legalWord_6A01, legalWord_8AB8, rfl, rfl⟩

theorem witness_MatchComparesOnlyTheMaskedWordWithThePattern :
    let e : Entry := ⟨"SKP", 0xE09E, 0xF0FF, .machine, .regHi, .none, .none⟩
    let e' : Entry := ⟨"OTHER", 0xE09E, 0xF0FF, .pseudo, .none, .index, .none⟩
    e.mask = e'.mask ∧ e.pattern = e'.pattern ∧ e ≠ e' := by decide

theorem witness_EntryInvariantHoldsAndItsBreachNeverMatches :
    (0x1001 : Word) &&& 0xF000 ≠ 0x1001 := by decide

theorem witness_RefinementsMustStandFirst :
    let narrow : Entry := ⟨"NARROW", 0xD000, 0xF00F, .machine, .regHi, .regLo, .none⟩
    let wide : Entry := ⟨"WIDE", 0xD000, 0xF000, .machine, .regHi, .regLo, .imm4⟩
    narrow.refines wide = true ∧ narrow.hit true 0xD120 = true
      ∧ t2'[1]? = some narrow ∧ t2'[0]? = some wide := by decide

theorem witness_LowestHitWins :
    sel true defaultTable 0x00E0 = some 0 ∧ sel true defaultTable 0xF065 = some 34 := by decide

theorem witness_VfRestrictionRejectsTheWinnerWithoutBacktracking :
    let e : Entry := ⟨"ADD", 0x8004, 0xF00F, .machine, .regHi, .regLo, .none⟩
    sel true defaultTable 0x8F14 = some 14 ∧ sel true defaultTable 0x8E14 = some 14
      ∧ defaultTable[14]? = some e ∧ (14, 0) ∈ ([(14, 0)] : VfReject) ∧ e.kindAt 0 = .regHi
      ∧ (0x8F14 : Word).extractLsb' 8 4 = (15 : Reg) ∧ ¬ (0x8E14 : Word).extractLsb' 8 4 = (15 : Reg)
      ∧ e.kindAt 1 = .regLo ∧ sel true defaultTable 0x81F4 = some 14
      ∧ (0x81F4 : Word).extractLsb' 4 4 = (15 : Reg) := by decide

/-- `T2` is well-formed; its port has 3 bits. -/
theorem t2_wellFormed : Table.wellFormed t2 := by
  refine ⟨by decide, ?_, by decide⟩
  intro i e h hc
  have hi : i < 4 := by
    by_contra hge
    rw [List.getElem?_eq_none (by simpa [t2] using Nat.le_of_not_lt hge)] at h
    exact absurd h (by simp)
  interval_cases i
  · exact ⟨0xD120, by decide, by decide⟩
  · exact ⟨0xD125, by decide, by decide⟩
  · exact ⟨0xE300, by decide, by decide⟩
  · obtain rfl := Option.some.inj h
    exact absurd hc (by decide)

theorem witness_DecodedResultIsSound :
    decodeWith true t2 [] 0xE307 = .decoded 2 { x := some 3 } ∧ Table.wellFormed t2 :=
  ⟨by decide, t2_wellFormed⟩

theorem witness_DontCareBitsAreIgnored :
    let e : Entry := ⟨"DC", 0xE000, 0xF0F0, .machine, .regHi, .none, .none⟩
    t2[2]? = some e ∧ sel true t2 0xE300 = some 2 ∧ sel true t2 0xE30F = some 2
      ∧ ((0xE300 : Word) ^^^ 0xE30F) &&& (e.mask ||| e.fbits) = 0 ∧ e.patternInMask = true := by decide

theorem witness_EncodeThenDecodeGivesFormatAndOperandsBack :
    let e : Entry := ⟨"WIDE", 0xD000, 0xF000, .machine, .regHi, .regLo, .imm4⟩
    let f : Fields := { x := some 15, y := some 15, n := some 15 }
    Table.wellFormed t2 ∧ t2[1]? = some e ∧ e.cls = .machine ∧ e.suits f = true
      ∧ (∀ j < 1, hitAt true t2 j (encodeFields e f) = false)
      ∧ vfRejected [(1, 2), (0, 0)] 1 e (encodeFields e f) = false :=
  ⟨t2_wellFormed, rfl, rfl, by decide, by decide, by decide⟩

/-- The second part's hypotheses, at the exceptions and beside them. -/
theorem witness_EncodeThenDecode_defaultTable :
    (defaultTable[2]?.all fun d => d.cls == .machine && d.suits { nnn := some 0x0E0 }
      && d.suits { nnn := some 0x0EE } && d.suits { nnn := some 0x0DF }) = true
    ∧ (defaultTable[34]?.all fun d => d.cls == .machine && d.suits { x := some 15 }) = true
    ∧ defaultTable[2]?.isSome = true ∧ defaultTable[34]?.isSome = true := by decide

theorem witness_DecodeInvertsEncodeForEveryInstruction :
    Instr.wellFormed (.sys 0x0DF) = true ∧ Instr.wellFormed (.drw 15 15 15) = true
    ∧ Instr.wellFormed .cls = true := by decide

theorem witness_EncodeInvertsDecodeForEveryWord : decodeWord 0xFF65 = some (.ldVxInd 15) := by decide

theorem witness_EveryInstructionTakesExactlyOneWord :
    decode [0x00, 0xEE, 0x12] = .ok (.ret, [0x12]) ∧ ([0x12] : List Byte).length < 2 := by decide

theorem witness_ImageHoldsTheWordsInOrder :
    ∀ i ∈ [Instr.ldI 6, .ldVxInd 2], i.fmt ≠ 35 := by decide

theorem witness_OverlapsOfTheDefaultTable :
    (defaultTable[2]?).isSome = true ∧ (defaultTable[35]?).isSome = true
    ∧ (defaultTable[34]?).isSome = true ∧ (0x00FF : Word).toNat ≤ 0x00FF := by decide

theorem witness_ResultsAndPortValuesCorrespondOneToOne :
    35 < defaultTable.length ∧ (defaultTable[35]?).isSome = true
    ∧ Ports.ofResult defaultTable (.decoded 0 {}) = Ports.ofResult defaultTable (.decoded 0 {}) := by
  decide

end Sys2Proof.Tests
end

section
/-! The width of the format-id port (`00_scope.md` R5, `10_state.md` R32, the spec's decision D3): the
arithmetic of `FID_W`, what a decode that delivers a format says of the arbiter, and the bound on
`fmt_o`. -/

namespace Sys2Proof

/-- `FID_W` is `ceil(log2(n + 1))`: it is at most `w` exactly where `w` bits hold the numbers 0 to `n`. -/
theorem fidW_le_iff (n w : Nat) : Config.fidW n ≤ w ↔ n + 1 ≤ 2 ^ w := by
  unfold Config.fidW
  split
  next h => simp [h, Nat.one_le_two_pow]
  next h => rw [Nat.succ_le_iff, Nat.succ_le_iff, Nat.log2_lt h]

/-- Every number up to `n` fits the port of a table with `n` entries. -/
theorem lt_two_pow_fidW {i n : Nat} (h : i ≤ n) : i < 2 ^ Config.fidW n :=
  Nat.lt_of_lt_of_le (Nat.lt_succ_of_le h) ((fidW_le_iff n _).1 le_rfl)

/-- The decode delivers a format exactly where the arbiter's winner is its entry and the `VF`
restriction does not fire; the fields are those the entry cuts from the word (R110). -/
theorem decodeWith_eq_decoded_iff {skip : Bool} {T : Table} {vr : VfReject} {w : Word} {i : Nat}
    {f : Fields} : decodeWith skip T vr w = .decoded i f ↔
      sel skip T w = some i
        ∧ ∃ e, T[i]? = some e ∧ vfRejected vr i e w = false ∧ f = fieldsOf e w := by
  unfold decodeWith
  cases hsel : sel skip T w with
  | none => simp
  | some j =>
    obtain ⟨e, he⟩ : ∃ e, T[j]? = some e := ⟨_, List.getElem?_eq_getElem (sel_lt hsel)⟩
    simp only [he]
    constructor
    · intro h
      split at h
      next => cases h
      next hvf => cases h; exact ⟨rfl, e, he, by simpa using hvf, rfl⟩
    · rintro ⟨⟨⟩, e', he', hvf, rfl⟩
      obtain rfl : e = e' := Option.some.inj (he.symm.trans he')
      simp [hvf]

/-- A delivered format id is the index of an entry, below the sentinel's. -/
theorem decodeWith_decoded_lt {skip : Bool} {T : Table} {vr : VfReject} {w : Word} {i : Nat}
    {f : Fields} (h : decodeWith skip T vr w = .decoded i f) : i < T.length :=
  sel_lt (decodeWith_eq_decoded_iff.1 h).1

end Sys2Proof

namespace Sys2Proof.Machine

@[simp] theorem ofResult_fmtO_illegalOpcode (T : Table) :
    (Ports.ofResult T .illegalOpcode).fmtO = T.length := rfl
@[simp] theorem ofResult_fmtO_decoded (T : Table) (i : Nat) (f : Fields) :
    (Ports.ofResult T (.decoded i f)).fmtO = i := rfl

/-- The format id the block drives is an entry's index, or `N` for IllegalOpcode. -/
theorem blockOutputs_fmtO_le (T : Table) (vr : VfReject) (w : Word) :
    (blockOutputs T vr w).fmtO ≤ T.length := by
  unfold blockOutputs
  cases h : decodeWith Config.skipPseudo T vr w with
  | illegalOpcode => simp
  | decoded i f => simpa using (decodeWith_decoded_lt h).le

/-- Settles O49: the width is the least one that holds `N`, and no driven format id exceeds `N`. -/
theorem formatIdPortHasTheWidthItsTableNeeds : Obligations.FormatIdPortHasTheWidthItsTableNeeds := by
  unfold Obligations.FormatIdPortHasTheWidthItsTableNeeds
  refine ⟨fidW_le_iff, by decide, by decide, by decide, fun T vr w => ?_⟩
  have hle := blockOutputs_fmtO_le T vr w
  exact ⟨hle, lt_two_pow_fidW hle⟩

end Sys2Proof.Machine
end

section
/-! The arbiter and the entries it tests (`10_state.md` R22, R23; `40_decode_operation.md` R104): the
winner as the first entry that hits, the entry invariant and the ordering invariant. -/

namespace Sys2Proof

/-- The sequential scan from index `k` on is the library's first-match search, counted from `k`. -/
theorem selFrom_eq_findIdx? (skip : Bool) (T : Table) (k : Nat) (w : Word) :
    selFrom skip T k w = (T.findIdx? fun e => e.hit skip w).map (· + k) := by
  induction T generalizing k with
  | nil => rfl
  | cons e es ih =>
    rw [selFrom_cons, List.findIdx?_cons]
    split
    · simp
    · simp [ih, Function.comp_def, Nat.add_comm, Nat.add_left_comm]

theorem hitAt_getElem {skip : Bool} {T : Table} {i : Nat} (w : Word) (hi : i < T.length) :
    hitAt skip T i w = T[i].hit skip w :=
  hitAt_some w (List.getElem?_eq_getElem hi)

/-- Neither the sentinel nor anything behind it hits (R103). -/
theorem lt_length_of_hitAt {skip : Bool} {T : Table} {i : Nat} {w : Word}
    (h : hitAt skip T i w = true) : i < T.length := by
  by_contra hge
  simp [hitAt_none w (List.getElem?_eq_none (Nat.le_of_not_lt hge))] at h

/-- The winner is the lowest index that hits (R104). -/
theorem sel_eq_some_iff {skip : Bool} {T : Table} {w : Word} {i : Nat} :
    sel skip T w = some i ↔ hitAt skip T i w = true ∧ ∀ j < i, hitAt skip T j w = false := by
  simp only [sel, selFrom_eq_findIdx?, Nat.add_zero, Option.map_id', List.findIdx?_eq_some_iff_getElem]
  constructor
  · rintro ⟨hi, hhit, hfirst⟩
    refine ⟨by rwa [hitAt_getElem w hi], fun j hj => ?_⟩
    simpa [hitAt_getElem w (hj.trans hi)] using hfirst j hj
  · rintro ⟨hhit, hfirst⟩
    have hi := lt_length_of_hitAt hhit
    refine ⟨hi, by rwa [← hitAt_getElem w hi], fun j hj => ?_⟩
    simp [← hitAt_getElem w (hj.trans hi), hfirst j hj]

/-- With `SKIP_PSEUDO` the winner is a machine entry that matches (R102, R104). -/
theorem winner_machine_match {T : Table} {w : Word} {i : Nat} {e : Entry}
    (hsel : sel true T w = some i) (he : T[i]? = some e) :
    e.cls = .machine ∧ w &&& e.mask = e.pattern :=
  hit_iff.1 (by rw [← hitAt_some w he]; exact (sel_eq_some_iff.1 hsel).1)

/-- A word that matches an entry shows that the entry keeps the invariant of R22. -/
theorem pattern_and_mask_of_isMatch {e : Entry} {w : Word} (h : e.isMatch w = true) :
    e.pattern &&& e.mask = e.pattern := by
  rw [← isMatch_iff.1 h, BitVec.and_assoc, BitVec.and_self]

theorem refines_iff {a b : Entry} : a.refines b = true ↔
    a.cls = .machine ∧ b.cls = .machine ∧ b.mask &&& a.mask = b.mask
      ∧ a.pattern &&& b.mask = b.pattern := by
  simp [Entry.refines, and_assoc]

/-- A refinement hits no word that the entry it refines does not hit (R23). -/
theorem hit_of_refines {a b : Entry} {w : Word} (hr : a.refines b = true)
    (ha : a.hit true w = true) : b.hit true w = true := by
  obtain ⟨-, hb, hmask, hpattern⟩ := refines_iff.1 hr
  obtain ⟨-, hmatch⟩ := hit_iff.1 ha
  refine hit_iff.2 ⟨hb, ?_⟩
  calc w &&& b.mask = w &&& (b.mask &&& a.mask) := by rw [hmask]
    _ = w &&& a.mask &&& b.mask := by rw [BitVec.and_comm b.mask, BitVec.and_assoc]
    _ = b.pattern := by rw [hmatch, hpattern]

/-- The ordering invariant is a condition on the pairs of a list: no entry refines an earlier one. -/
theorem ordered_of_pairwise {T : Table} (h : T.Pairwise fun b a => a.refines b = false) :
    T.ordered := by
  intro i j a b ha hb hne hr
  obtain ⟨hi, rfl⟩ := List.getElem?_eq_some_iff.1 ha
  obtain ⟨hj, rfl⟩ := List.getElem?_eq_some_iff.1 hb
  by_contra hge
  simp [List.pairwise_iff_getElem.1 h j i hj hi (by omega)] at hr

/-- The default table has every refinement in front of what it refines (R23, R78). -/
theorem defaultTable_ordered : defaultTable.ordered := ordered_of_pairwise (by decide)

/-- Settles O23: what matches is a masked word, so a pattern with a bit outside the mask is none. -/
theorem entryInvariantHoldsAndItsBreachNeverMatches :
    Obligations.EntryInvariantHoldsAndItsBreachNeverMatches := by
  unfold Obligations.EntryInvariantHoldsAndItsBreachNeverMatches
  refine ⟨by decide, fun e w hbreach => ?_⟩
  rw [Bool.eq_false_iff]
  exact fun hmatch => hbreach (pattern_and_mask_of_isMatch hmatch)

/-- Settles O24: where a refinement hits, the entry it refines hits, and the lowest hit wins. -/
theorem refinementsMustStandFirst : Obligations.RefinementsMustStandFirst := by
  unfold Obligations.RefinementsMustStandFirst
  refine ⟨fun a b w => hit_of_refines, ?_, defaultTable_ordered⟩
  intro T i j a b w ha hb hr hji hsel
  obtain ⟨hhit, hfirst⟩ := sel_eq_some_iff.1 hsel
  have hbhit : hitAt true T j w = true := by
    rw [hitAt_some w ha] at hhit
    rw [hitAt_some w hb]
    exact hit_of_refines hr hhit
  simp [hfirst j hji] at hbhit

end Sys2Proof
end

section
/-! The ports (`10_state.md` R32 to R34): what a result puts on them, and that it can be read back. -/

namespace Sys2Proof.Machine

/-- The kind codes of the document's list leave code 15 free (R34). -/
theorem kindCode_ne_15 (k : Kind) : kindCode k ≠ 15 := by cases k <;> decide

/-- A field port whose valid bit is 0 is all zeros (R33). -/
theorem portValue_of_validBit_false {n : Nat} {f : Option (BitVec n)} (h : validBit f = false) :
    portValue f = 0 := by
  obtain rfl : f = none := by simpa [validBit] using h
  rfl

/-- The valid bit and the value of a field port give the field back (R33). -/
theorem field_eq_of_port_eq {n : Nat} {f g : Option (BitVec n)} (hv : validBit f = validBit g)
    (hp : portValue f = portValue g) : f = g := by
  cases f <;> cases g <;> simp_all [validBit, portValue]

/-- The operand fields of a result are read back from its ports (R33). -/
theorem fields_eq_of_ofResult_eq {T : Table} {r q : Result}
    (h : Ports.ofResult T r = Ports.ofResult T q) : resultFields r = resultFields q := by
  simp only [Ports.ofResult, Ports.mk.injEq] at h
  obtain ⟨-, -, -, -, -, hxv, hx, hyv, hy, hkkv, hkk, hnv, hn, hav, ha⟩ := h
  rw [Fields.mk.injEq]
  exact ⟨field_eq_of_port_eq hxv hx, field_eq_of_port_eq hyv hy, field_eq_of_port_eq hnv hn,
    field_eq_of_port_eq hkkv hkk, field_eq_of_port_eq hav ha⟩

/-- `illegal_o` alone tells the two kinds of result apart (R33). -/
theorem ofResult_illegalO_iff (T : Table) (r : Result) :
    (Ports.ofResult T r).illegalO = true ↔ r = .illegalOpcode := by
  cases r <;> simp [Ports.ofResult, illegalBit]

/-- What IllegalOpcode, or a format of the table, puts on the ports is sound (R27, R32 to R34). -/
theorem ofResult_sound {T : Table} {r : Result}
    (hr : ∀ (i : Nat) (f : Fields), r = .decoded i f → i < T.length) :
    (Ports.ofResult T r).sound T.length where
  x_zero    := portValue_of_validBit_false
  y_zero    := portValue_of_validBit_false
  kk_zero   := portValue_of_validBit_false
  n_zero    := portValue_of_validBit_false
  nnn_zero  := portValue_of_validBit_false
  fmt_width := by
    cases r with
    | illegalOpcode => exact lt_two_pow_fidW le_rfl
    | decoded i f => exact lt_two_pow_fidW (hr i f rfl).le
  no_code15 := ⟨kindCode_ne_15 _, kindCode_ne_15 _, kindCode_ne_15 _⟩
  illegal h := by
    obtain rfl := (ofResult_illegalO_iff T r).1 h
    exact ⟨rfl, rfl, rfl, rfl, rfl, rfl, rfl, rfl, rfl⟩
  legal h := by
    cases r with
    | illegalOpcode => cases h
    | decoded i f => exact hr i f rfl

/-- Whatever the word, the outputs of a block are sound. -/
theorem blockOutputs_sound (T : Table) (vr : VfReject) (w : Word) :
    (blockOutputs T vr w).sound T.length :=
  ofResult_sound fun _ _ => decodeWith_decoded_lt

/-- Settles O47: each port is the document's, and format id and fields are read back from the ports. -/
theorem resultsAndPortValuesCorrespondOneToOne :
    Obligations.ResultsAndPortValuesCorrespondOneToOne := by
  unfold Obligations.ResultsAndPortValuesCorrespondOneToOne
  refine ⟨fun T => rfl, ?_, ?_, ofResult_illegalO_iff⟩
  · intro T i e f he
    simp [Ports.ofResult, illegalBit, resultKind, he, Entry.kindAt, resultFields, validBit, portValue]
  · intro T i j f g _ _ h
    exact ⟨congrArg Ports.fmtO h, fields_eq_of_ofResult_eq h⟩

/-- Settles O48: the list is evaluated, and a kind port carries a kind's code. -/
theorem kindCodesFollowTheDocumentsList : Obligations.KindCodesFollowTheDocumentsList := by
  unfold Obligations.KindCodesFollowTheDocumentsList
  exact ⟨by decide, fun T r => ⟨kindCode_ne_15 _, kindCode_ne_15 _, kindCode_ne_15 _⟩⟩

/-- The reset outputs are the decode of the word 0 under the default table (R35). -/
theorem reset_combinational : State.reset.combinational := by decide

/-- Settles O15: the outputs at reset are the block's, which are sound. -/
theorem resetStateIsCombinationalSoundAndRunning :
    Obligations.ResetStateIsCombinationalSoundAndRunning := by
  unfold Obligations.ResetStateIsCombinationalSoundAndRunning
  refine ⟨reset_combinational, ?_, rfl, rfl, rfl, rfl, rfl⟩
  rw [reset_combinational, ← defaultTable_length]
  exact blockOutputs_sound defaultTable _ _

end Sys2Proof.Machine
end

section
/-! What a step does (`10_state.md` R20, R21, R28, R31): an instruction changes only the outputs, and a
running machine's step drives the decode of the word presented. -/

namespace Sys2Proof.Machine

@[simp] theorem sameButOut_refl (s : State) : s.sameButOut s := ⟨rfl, rfl, rfl, rfl, rfl⟩

@[simp] theorem sameButOut_drive (s : State) (r : Result) : s.sameButOut (s.drive r) :=
  ⟨rfl, rfl, rfl, rfl, rfl⟩

/-- `DB` is the one instruction of row 35. -/
theorem eq_db_of_fmt {i : Instr} (h : i.fmt = 35) : ∃ kk, i = .db kk := by
  cases i with
  | db kk => exact ⟨kk, rfl⟩
  | _ => cases h

/-- Settles O12: `DB` leaves the state, every other instruction delivers its format. -/
theorem everyInstructionCompletesAndChangesOnlyOutputs :
    Obligations.EveryInstructionCompletesAndChangesOnlyOutputs := by
  unfold Obligations.EveryInstructionCompletesAndChangesOnlyOutputs
  intro i s
  by_cases hdb : i.fmt = 35
  · obtain ⟨kk, rfl⟩ := eq_db_of_fmt hdb
    exact ⟨s, exec_db kk s, sameButOut_refl s⟩
  · obtain ⟨r, hr⟩ := deliver_drives i.fmt i.fields s
    exact ⟨s.drive r, (exec_eq_deliver i s hdb).trans hr, sameButOut_drive s r⟩

theorem extract_x (k : Kind) (w : Word) :
    (extract k w).x = if k = .regHi then some (cutX w) else none := by cases k <;> rfl

theorem extract_y (k : Kind) (w : Word) :
    (extract k w).y = if k = .regLo then some (cutY w) else none := by cases k <;> rfl

/-- The field `x` is present exactly where a slot is `REG_HI` (R107). -/
theorem fieldsOf_x (e : Entry) (w : Word) :
    (fieldsOf e w).x = if e.has .regHi then some (cutX w) else none := by
  simp only [fieldsOf, Fields.merge, extract_x, Entry.has]
  by_cases h0 : e.kind0 = .regHi <;> by_cases h1 : e.kind1 = .regHi <;> simp [h0, h1]

/-- The field `y` is present exactly where a slot is `REG_LO` (R107). -/
theorem fieldsOf_y (e : Entry) (w : Word) :
    (fieldsOf e w).y = if e.has .regLo then some (cutY w) else none := by
  simp only [fieldsOf, Fields.merge, extract_y, Entry.has]
  by_cases h0 : e.kind0 = .regLo <;> by_cases h1 : e.kind1 = .regLo <;> simp [h0, h1]

/-- A slot's restriction reads the same register value from the fields as from the word (R109). -/
theorem operandRejected_fieldsOf (vr : VfReject) (i s : Nat) (e : Entry) (k : Kind) (w : Word)
    (hk : e.has k = true) : operandRejected vr i s k (fieldsOf e w) = slotRejected vr i s k w := by
  unfold operandRejected slotRejected
  cases k with
  | regHi => rw [fieldsOf_x, hk]; rfl
  | regLo => rw [fieldsOf_y, hk]; rfl
  | _ => rfl

/-- The `VF` restriction on the delivered operands is the one on the winner's word (R109). -/
theorem operandsRejected_fieldsOf {T : Table} {i : Nat} {e : Entry} (he : T[i]? = some e)
    (vr : VfReject) (w : Word) :
    operandsRejected T vr i (fieldsOf e w) = vfRejected vr i e w := by
  have h0 : e.has e.kind0 = true := by simp [Entry.has]
  have h1 : e.has e.kind1 = true := by simp [Entry.has]
  have h2 : e.has e.kind2 = true := by simp [Entry.has]
  simp [operandsRejected, vfRejected, he, operandRejected_fieldsOf, h0, h1, h2]

/-- Delivering the winner drives the decode of the word (R110). -/
theorem deliver_winner {s : State} {w : Word} {i : Nat} {e : Entry}
    (hsel : sel Config.skipPseudo s.table w = some i) (he : s.table[i]? = some e) :
    deliver i (fieldsOf e w) s =
      .next (s.drive (decodeWith Config.skipPseudo s.table s.vfReject w)) := by
  have hrej := operandsRejected_fieldsOf he s.vfReject w
  simp only [decodeWith, hsel, he]
  obtain ⟨h, hd⟩ | ⟨h, hd⟩ := deliver_cases i (fieldsOf e w) s
  · simp [hd, ← hrej, h]
  · simp [hd, ← hrej, h]

/-- What a word selects, by the arbiter's winner: none, or an entry of the table, as the instruction
whose row it is or else with the fields it cuts from the word (R104, R107). -/
theorem selectIn_cases (T : Table) (w : Word) :
    (sel Config.skipPseudo T w = none ∧ selectIn T w = .noHit) ∨
    ∃ i e, sel Config.skipPseudo T w = some i ∧ T[i]? = some e ∧
      ((∃ j, instrOfRow i e w = some j ∧ selectIn T w = .instr j) ∨
        selectIn T w = .other i (fieldsOf e w)) := by
  unfold selectIn
  cases hsel : sel Config.skipPseudo T w with
  | none => exact .inl ⟨rfl, rfl⟩
  | some i =>
    have he : T[i]? = some (T[i]'(sel_lt hsel)) := List.getElem?_eq_getElem (sel_lt hsel)
    refine .inr ⟨i, _, rfl, he, ?_⟩
    simp only [he]
    cases hj : instrOfRow i (T[i]'(sel_lt hsel)) w with
    | none => exact .inr rfl
    | some j => exact .inl ⟨j, rfl, rfl⟩

theorem sel_of_selectIn_noHit {T : Table} {w : Word} (h : selectIn T w = .noHit) :
    sel Config.skipPseudo T w = none := by
  obtain ⟨hsel, -⟩ | ⟨i, e, -, -, ⟨j, -, h'⟩ | h'⟩ := selectIn_cases T w
  · exact hsel
  all_goals simp [h] at h'

theorem winner_of_selectIn_other {T : Table} {w : Word} {i : Nat} {f : Fields}
    (h : selectIn T w = .other i f) :
    ∃ e, sel Config.skipPseudo T w = some i ∧ T[i]? = some e ∧ f = fieldsOf e w := by
  obtain ⟨-, h'⟩ | ⟨i, e, hsel, he, ⟨j, -, h'⟩ | h'⟩ := selectIn_cases T w
  all_goals cases h.symm.trans h'
  exact ⟨e, hsel, he, rfl⟩

/-- An entry that stands for `DB` is a pseudo-directive (R190). -/
theorem cls_of_instrOfRow_db {e : Entry} {w : Word} {j : Instr}
    (h : instrOfRow 35 e w = some j) : e.cls = .pseudo := by
  unfold instrOfRow at h
  split at h
  next hs =>
    obtain ⟨-, -, hcls, -⟩ := sameFormat_iff.1 (show e.sameFormat _ = true from hs)
    exact hcls
  next => cases h

/-- A selected instruction is the winner's, by format id and fields, and never `DB` (R104, R102). -/
theorem winner_of_selectIn_instr {T : Table} {w : Word} {j : Instr}
    (h : selectIn T w = .instr j) : j.fmt ≠ 35 ∧
    ∃ e, sel Config.skipPseudo T w = some j.fmt ∧ T[j.fmt]? = some e ∧ j.fields = fieldsOf e w := by
  obtain ⟨-, h'⟩ | ⟨i, e, hsel, he, ⟨j, hj, h'⟩ | h'⟩ := selectIn_cases T w
  all_goals cases h.symm.trans h'
  obtain ⟨rfl, hfields⟩ := instrOfRow_spec hj
  refine ⟨fun hdb => ?_, e, hsel, he, hfields⟩
  rw [hdb] at hj
  cases (cls_of_instrOfRow_db hj).symm.trans (winner_machine_match hsel he).1

/-- A running machine's step is the whole decode function on the word presented (R110, R230). -/
theorem step_of_running {s : State} (hrun : s.running) :
    step s = .next (s.present.drive
      (decodeWith Config.skipPseudo s.table s.vfReject s.present.wordI)) := by
  have hdeliver {i : Nat} {e : Entry} := @deliver_winner s.present s.present.wordI i e
  rw [present_table, present_vfReject] at hdeliver
  obtain ⟨hhalt, -⟩ | ⟨-, j, hj, hstep⟩ | ⟨-, i, f, hf, hstep⟩ | ⟨-, hno, hstep⟩ := step_cases s
  · cases hhalt.symm.trans hrun
  · obtain ⟨hdb, e, hsel, he, hfields⟩ := winner_of_selectIn_instr hj
    rw [hstep, exec_eq_deliver j _ hdb, hfields, hdeliver hsel he]
  · obtain ⟨e, hsel, he, rfl⟩ := winner_of_selectIn_other hf
    rw [hstep, hdeliver hsel he]
  · rw [hstep, decodeWith, sel_of_selectIn_noHit hno, State.raiseIllegalOpcode]

/-- A step to a next state is that of a running machine. -/
theorem running_of_step_next {s t : State} (h : step s = .next t) : s.running := by
  obtain ⟨-, hf⟩ | ⟨hrun, -⟩ | ⟨hrun, -⟩ | ⟨hrun, -⟩ := step_cases s
  · simp [hf] at h
  all_goals exact hrun

/-- The only next state of a step: the word presented, and its decode on the ports. -/
theorem eq_of_step_next {s t : State} (h : step s = .next t) : t = s.present.drive
    (decodeWith Config.skipPseudo s.table s.vfReject s.present.wordI) := by
  rw [step_of_running (running_of_step_next h)] at h
  exact (Host.Outcome.next.inj h).symm

/-- Settles O16: driving the ports leaves the queue and the parameters as presenting left them. -/
theorem stepTakesOneWordAndKeepsTheParameters :
    Obligations.StepTakesOneWordAndKeepsTheParameters := by
  unfold Obligations.StepTakesOneWordAndKeepsTheParameters
  intro s t h
  simp [eq_of_step_next h]

/-- Settles O17: the outputs after a step are a function of word, queue, table and `VF_REJECT`. -/
theorem earlierOutputsDoNotInfluenceTheNext :
    Obligations.EarlierOutputsDoNotInfluenceTheNext := by
  unfold Obligations.EarlierOutputsDoNotInfluenceTheNext
  intro s s' t t' hword hpending htable hvf h h'
  simp [eq_of_step_next h, eq_of_step_next h', hword, hpending, htable, hvf]

end Sys2Proof.Machine
end

section
/-! A fetch cycle and runs of cycles (`20_memory.md` R42, R44, R52; `60_exceptions.md` R203, R207): what
a step answers by whether the engine has halted, the word that is presented, and a stream of words. -/

namespace Sys2Proof

/-- The two bytes of a word give the word back (R42). -/
theorem wordOfBytes_halves (w : Word) : wordOfBytes (w.extractLsb' 8 8) (w.extractLsb' 0 8) = w :=
  BitVec.extractLsb'_append_extractLsb'

/-- The decoder of bytes reads from a table row's bits what the word of those bits decodes to (R60). -/
theorem decodeTableWord_eq (nbits w : Nat) :
    decodeTableWord nbits w = decodeWord (tableWord nbits w) := by
  simp only [decodeTableWord, bytesOfWord, decode, wordOfBytes_halves]
  cases decodeWord (tableWord nbits w) <;> rfl

end Sys2Proof

namespace Sys2Proof.Machine

/-! ### One step -/

theorem engineHalted_iff {s : State} :
    s.engineHalted = true ↔ s.out.illegalO = true ∧ s.illegalResponse = .halt := by
  simp [State.engineHalted]

theorem step_of_halted {s : State} (h : s.engineHalted = true) : step s = .fault .illegalOpcode :=
  if_pos h

/-- A step answers a next state exactly where the machine is running (R52, R203). -/
theorem exists_step_next_iff {s : State} : (∃ t, step s = .next t) ↔ s.running :=
  ⟨fun ⟨_, h⟩ => running_of_step_next h, fun h => ⟨_, step_of_running h⟩⟩

/-- The outputs after a step are the block's answer to the word on the input (R230). -/
theorem combinational_of_step_next {s t : State} (h : step s = .next t) : t.combinational := by
  obtain rfl := eq_of_step_next h
  simp [State.combinational, blockOutputs]

/-- Driving the decode of the word on the input changes no outputs that show it already. -/
theorem drive_of_combinational {s : State} (h : s.combinational) :
    s.drive (decodeWith Config.skipPseudo s.table s.vfReject s.wordI) = s := by
  change { s with out := blockOutputs s.table s.vfReject s.wordI } = s
  rw [← h]

/-- With the default table a running machine runs the instruction that the presented word decodes to. -/
theorem step_of_decodeWord_some {s : State} {i : Instr} (hrun : s.running)
    (htab : s.table = defaultTable) (hi : decodeWord s.present.wordI = some i) :
    step s = exec i s.present := by
  simp [step, hrun, htab, selectIn_default, hi, -present_wordI]

/-- With the default table a running machine answers a word that decodes to nothing with IllegalOpcode. -/
theorem step_of_decodeWord_none {s : State} (hrun : s.running)
    (htab : s.table = defaultTable) (hi : decodeWord s.present.wordI = none) :
    step s = .next s.present.raiseIllegalOpcode := by
  simp [step, hrun, htab, selectIn_default, hi, -present_wordI]

/-- Under the default table, `raise IllegalOpcode` shows the outputs the document lists (R33, R201). -/
theorem raiseIllegalOpcode_of_defaultTable {s : State} (htab : s.table = defaultTable) :
    s.raiseIllegalOpcode = { s with out := Expected.illegal } := by
  unfold State.raiseIllegalOpcode State.drive
  rw [htab]
  rfl

/-- The placed word is the next one presented, and presenting it restores the queue. -/
theorem present_withFetchWord (s : State) (nbits w : Nat) :
    (s.withFetchWord nbits w).present = { s with wordI := tableWord nbits w } := rfl

/-- Settles O3: the placed word is the one presented, and its bytes decode to what the word does. -/
theorem fetchedWordIsRunByTheNextStep : Obligations.FetchedWordIsRunByTheNextStep := by
  unfold Obligations.FetchedWordIsRunByTheNextStep
  intro s nbits w hrun htab
  rw [decodeTableWord_eq]
  have hrun' : (s.withFetchWord nbits w).running := hrun
  refine ⟨fun i hi => ?_, fun hi => ?_⟩
  · rw [step_of_decodeWord_some hrun' htab hi, present_withFetchWord]
  · rw [step_of_decodeWord_none hrun' htab hi, present_withFetchWord]
    exact congrArg _ (raiseIllegalOpcode_of_defaultTable htab)

/-- Settles O18: the held word is presented again, and the outputs show its decode already. -/
theorem decodingTheHeldWordAgainChangesNothing :
    Obligations.DecodingTheHeldWordAgainChangesNothing := by
  unfold Obligations.DecodingTheHeldWordAgainChangesNothing
  intro s t hstep hrun hnil
  rw [step_of_running hrun, present_nil hnil,
    drive_of_combinational (combinational_of_step_next hstep)]

/-- Settles O20: a halted engine is the fault, and a running one answers the decode. -/
theorem stepStopsOnlyWhereTheEngineHasHalted : Obligations.StepStopsOnlyWhereTheEngineHasHalted := by
  unfold Obligations.StepStopsOnlyWhereTheEngineHasHalted
  intro s
  rw [← engineHalted_iff, exists_step_next_iff]
  cases hs : s.engineHalted with
  | true => simp [step_of_halted hs]
  | false => simp [step_of_running hs]

/-! ### A stream of words -/

section Run
variable {M : Host.Core}

/-- A run whose first step answers a next state goes on from there. -/
theorem run_succ_of_step_next {s t : M.State} (h : M.step s = .next t) (k : Nat) :
    M.run (k + 1) s = M.run k t := by
  simp only [Host.Core.run, h]

/-- A step that faults ends the run. -/
theorem run_succ_of_step_fault {s : M.State} {r : M.Fault} (h : M.step s = .fault r) (k : Nat) :
    M.run (k + 1) s = .fault r := by
  simp only [Host.Core.run, h]

/-- A run of one step more takes that step from the state the run came to. -/
theorem run_succ_of_run_next {k : Nat} {s t : M.State} (h : M.run k s = .next t) :
    M.run (k + 1) s = M.run 1 t := by
  induction k generalizing s with
  | zero => cases h; rfl
  | succ k ih =>
    cases hs : M.step s with
    | next u =>
      rw [run_succ_of_step_next hs] at h ⊢
      exact ih h
    | fault r => simp [run_succ_of_step_fault hs] at h
    | refused r => simp [Host.Core.run, hs] at h

end Run

/-- The state in which the block answers `w` and the words `ws` still wait. -/
def State.answering (s : State) (w : Word) (ws : List Word) : State :=
  { s with wordI := w, pending := ws, out := blockOutputs s.table s.vfReject w }

/-- A running machine answers the first waiting word (R52). -/
theorem step_of_pending_cons {s : State} {w : Word} {ws : List Word} (hrun : s.running)
    (h : s.pending = w :: ws) : step s = .next (s.answering w ws) := by
  rw [step_of_running hrun, present_cons h]
  rfl

/-- The engine halts on an answer exactly where the word is illegal and halting its response (R203). -/
theorem answering_engineHalted_iff {s : State} {w : Word} {ws : List Word} :
    (s.answering w ws).engineHalted = true ↔
      legalWord s.table s.vfReject w = false ∧ s.illegalResponse = .halt := by
  simp [engineHalted_iff, State.answering, legalWord]

/-- After a legal word, or with an engine that goes on, the machine is running (R203, R207). -/
theorem answering_running {s : State} {w : Word} {ws : List Word}
    (h : legalWord s.table s.vfReject w = true ∨ s.illegalResponse = .goOn) :
    (s.answering w ws).running := by
  rw [State.running, Bool.eq_false_iff, Ne, answering_engineHalted_iff]
  rintro ⟨hillegal, hhalt⟩
  simp [hillegal, hhalt] at h

/-- A machine that halts on none of the words `ws` comes to the answer of the word after them. -/
theorem run_stream {s : State} {ws rest : List Word} {w : Word} (hrun : s.running)
    (hpending : s.pending = ws ++ w :: rest)
    (hgo : (∀ v ∈ ws, legalWord s.table s.vfReject v = true) ∨ s.illegalResponse = .goOn) :
    Host.Core.run core (ws.length + 1) s = Host.Outcome.next (s.answering w rest) := by
  induction ws generalizing s with
  | nil => exact run_succ_of_step_next (M := core) (step_of_pending_cons hrun hpending) 0
  | cons v vs ih =>
    have hrun' : (s.answering v (vs ++ w :: rest)).running :=
      answering_running (hgo.imp_left fun h => h v List.mem_cons_self)
    rw [List.length_cons, run_succ_of_step_next (M := core) (step_of_pending_cons hrun hpending)]
    exact ih hrun' rfl (hgo.imp_left fun h u hu => h u (List.mem_cons_of_mem v hu))

/-- Settles O21: by induction on the words before `w`; a halt on `w` is the step after its answer. -/
theorem streamIsAnsweredUntilTheFirstIllegalWord :
    Obligations.StreamIsAnsweredUntilTheFirstIllegalWord := by
  unfold Obligations.StreamIsAnsweredUntilTheFirstIllegalWord
  intro s ws rest w hrun hpending
  refine ⟨run_stream hrun hpending, fun hlegal hillegal hhalt => ?_⟩
  rw [run_succ_of_run_next (run_stream hrun hpending (.inl hlegal))]
  have hhalted : (s.answering w rest).engineHalted = true :=
    answering_engineHalted_iff.2 ⟨hillegal, hhalt⟩
  exact run_succ_of_step_fault (M := core) (step_of_halted hhalted) 0

end Sys2Proof.Machine
end

section
/-! The encoder and the extractor, slot by slot (`30_encoding.md` R73 to R75, R77): each kind has its
part of a word, `Kind.place` writes it and `extract` reads it, and a well-formed entry keeps the parts of
its slots apart from each other and from the opcode. -/

namespace Sys2Proof
open Machine

/-! ### One slot -/

/-- The bits a slot of kind `k` puts into the word (R73): the operand of the kind at its place. -/
def Kind.place (f : Fields) : Kind → Word
  | .regHi  => placeField true f.x 8
  | .regLo  => placeField true f.y 4
  | .imm4   => placeField true f.n 0
  | .imm8   => placeField true f.kk 0
  | .addr12 => placeField true f.nnn 0
  | .none | .fixedV0 | .timerDelay | .timerSound | .index | .indexInd | .bcd | .sprite
  | .keyWait | .nullPh => 0

/-- A field lies within the bits of its width, shifted to its place. -/
theorem placeField_and {n : Nat} (v : Option (BitVec n)) (sh : Nat) :
    placeField true v sh &&& ((BitVec.allOnes n).setWidth 16 <<< sh) = placeField true v sh := by
  apply BitVec.eq_of_getLsbD_eq
  intro i hi
  by_cases hn : i - sh < n
  · simp only [placeField, if_true, BitVec.getLsbD_and, BitVec.getLsbD_shiftLeft,
      BitVec.getLsbD_setWidth, BitVec.getLsbD_allOnes]
    grind
  · simp [placeField, BitVec.getLsbD_of_ge _ _ (Nat.le_of_not_lt hn)]

/-- A slot writes no bit but those of its kind's field (R72). -/
theorem place_and_fbits (k : Kind) (f : Fields) : k.place f &&& k.fbits = k.place f := by
  cases k with
  | regHi => exact placeField_and f.x 8
  | regLo => exact placeField_and f.y 4
  | imm4 => exact placeField_and f.n 0
  | imm8 => exact placeField_and f.kk 0
  | addr12 => exact placeField_and f.nnn 0
  | _ => simp [Kind.place]

/-- A slot writes nothing under a mask that is apart from its kind's field. -/
theorem place_and_eq_zero {k : Kind} {m : Word} (f : Fields) (h : k.fbits &&& m = 0) :
    k.place f &&& m = 0 := by
  rw [← place_and_fbits, BitVec.and_assoc, h]
  exact BitVec.and_zero

/-- A slot reads no bit but those of its kind's field (R72, R107). -/
theorem extract_and_fbits (k : Kind) (w : Word) : extract k (w &&& k.fbits) = extract k w := by
  cases k with
  | regHi | regLo | imm4 | imm8 | addr12 =>
    simp only [extract, Kind.fbits, Fields.mk.injEq, Option.some.injEq, and_true, true_and]
    apply BitVec.eq_of_getLsbD_eq
    intro i hi
    interval_cases i <;> simp [cutX, cutY, cutN, cutKK, cutNNN]
  | _ => rfl

/-- Words that agree on a kind's field read alike in a slot of that kind. -/
theorem extract_congr {k : Kind} {v w : Word} (h : v &&& k.fbits = w &&& k.fbits) :
    extract k v = extract k w := by
  rw [← extract_and_fbits, h, extract_and_fbits]

/-! ### The slots of an entry -/

theorem has_iff {e : Entry} {k : Kind} :
    e.has k = true ↔ e.kind0 = k ∨ e.kind1 = k ∨ e.kind2 = k := by
  simp [Entry.has, or_assoc]

theorem has_kind0 (e : Entry) : e.has e.kind0 = true := has_iff.2 (.inl rfl)
theorem has_kind1 (e : Entry) : e.has e.kind1 = true := has_iff.2 (.inr (.inl rfl))
theorem has_kind2 (e : Entry) : e.has e.kind2 = true := has_iff.2 (.inr (.inr rfl))

theorem placeField_or {n : Nat} (a b : Bool) (v : Option (BitVec n)) (sh : Nat) :
    placeField (a || b) v sh = placeField a v sh ||| placeField b v sh := by
  cases a <;> cases b <;> simp

/-- What the encoder's five fields write for one slot. -/
theorem place_eq_or (k : Kind) (f : Fields) :
    k.place f = placeField (k == .regHi) f.x 8 ||| placeField (k == .regLo) f.y 4
      ||| placeField (k == .imm4) f.n 0 ||| placeField (k == .imm8) f.kk 0
      ||| placeField (k == .addr12) f.nnn 0 := by
  cases k <;> simp [Kind.place, placeField]

/-- The encoder slot by slot: the pattern with what each of the three slots writes (R73). -/
theorem encodeFields_eq_or (e : Entry) (f : Fields) : encodeFields e f =
    e.pattern ||| e.kind0.place f ||| e.kind1.place f ||| e.kind2.place f := by
  simp only [encodeFields, Entry.has, placeField_or, place_eq_or]
  ac_rfl

/-- The three conditions of R77 on an entry, as equations of words. -/
theorem entry_wellFormed_iff {e : Entry} : e.wellFormed = true ↔
    e.pattern &&& e.mask = e.pattern ∧ e.fbits &&& e.mask = 0 ∧ e.slotsDisjoint = true := by
  simp [Entry.wellFormed, Entry.patternInMask, Entry.fieldsOffMask, and_assoc]

/-- No slot of a well-formed entry lies on an opcode bit (R77 (b)). -/
theorem slots_and_mask {e : Entry} (h : e.wellFormed = true) : e.kind0.fbits &&& e.mask = 0
    ∧ e.kind1.fbits &&& e.mask = 0 ∧ e.kind2.fbits &&& e.mask = 0 := by
  obtain ⟨-, hmask, -⟩ := entry_wellFormed_iff.1 h
  simpa [Entry.fbits, mask_or, and_assoc] using hmask

/-- The slots of a well-formed entry do not overlap (R77 (c)). -/
theorem slots_and_slots {e : Entry} (h : e.wellFormed = true) :
    e.kind0.fbits &&& e.kind1.fbits = 0 ∧ e.kind0.fbits &&& e.kind2.fbits = 0
      ∧ e.kind1.fbits &&& e.kind2.fbits = 0 := by
  obtain ⟨-, -, hdisj⟩ := entry_wellFormed_iff.1 h
  simp only [Entry.slotsDisjoint, Bool.and_eq_true, beq_iff_eq] at hdisj
  grind

/-- The opcode of an encoded word is the entry's pattern: the word matches (R74). -/
theorem encodeFields_and_mask {e : Entry} (h : e.wellFormed = true) (f : Fields) :
    encodeFields e f &&& e.mask = e.pattern := by
  obtain ⟨hpattern, -, -⟩ := entry_wellFormed_iff.1 h
  obtain ⟨h0, h1, h2⟩ := slots_and_mask h
  simp [encodeFields_eq_or, mask_or, hpattern, place_and_eq_zero, h0, h1, h2]

/-- On the bits of a slot's kind, an encoded word is what that slot writes (R74). -/
theorem encodeFields_and_fbits {e : Entry} {k : Kind} (h : e.wellFormed = true)
    (hk : e.has k = true) (f : Fields) : encodeFields e f &&& k.fbits = k.place f := by
  obtain ⟨hpattern, -, -⟩ := entry_wellFormed_iff.1 h
  obtain ⟨hm0, hm1, hm2⟩ := slots_and_mask h
  obtain ⟨h01, h02, h12⟩ := slots_and_slots h
  have hoff {m : Word} (hm : m &&& e.mask = 0) : e.pattern &&& m = 0 := by
    rw [← hpattern, BitVec.and_assoc, BitVec.and_comm e.mask, hm]; simp
  rw [encodeFields_eq_or, mask_or, mask_or, mask_or]
  obtain rfl | rfl | rfl := has_iff.1 hk
  · simp [hoff hm0, place_and_fbits, place_and_eq_zero, BitVec.and_comm e.kind1.fbits e.kind0.fbits,
      BitVec.and_comm e.kind2.fbits, h01, h02]
  · simp [hoff hm1, place_and_fbits, place_and_eq_zero, h01, BitVec.and_comm e.kind2.fbits, h12]
  · simp [hoff hm2, place_and_fbits, place_and_eq_zero, h02, h12]

/-! ### Reading the fields back -/

theorem extract_n (k : Kind) (w : Word) :
    (extract k w).n = if k = .imm4 then some (cutN w) else none := by cases k <;> rfl

theorem extract_kk (k : Kind) (w : Word) :
    (extract k w).kk = if k = .imm8 then some (cutKK w) else none := by cases k <;> rfl

theorem extract_nnn (k : Kind) (w : Word) :
    (extract k w).nnn = if k = .addr12 then some (cutNNN w) else none := by cases k <;> rfl

/-- The field `n` is present exactly where a slot is `IMM4` (R107). -/
theorem fieldsOf_n (e : Entry) (w : Word) :
    (fieldsOf e w).n = if e.has .imm4 then some (cutN w) else none := by
  simp only [fieldsOf, Fields.merge, extract_n, Entry.has]
  by_cases h0 : e.kind0 = .imm4 <;> by_cases h1 : e.kind1 = .imm4 <;> simp [h0, h1]

/-- The field `kk` is present exactly where a slot is `IMM8` (R107). -/
theorem fieldsOf_kk (e : Entry) (w : Word) :
    (fieldsOf e w).kk = if e.has .imm8 then some (cutKK w) else none := by
  simp only [fieldsOf, Fields.merge, extract_kk, Entry.has]
  by_cases h0 : e.kind0 = .imm8 <;> by_cases h1 : e.kind1 = .imm8 <;> simp [h0, h1]

/-- The field `nnn` is present exactly where a slot is `ADDR12` (R107). -/
theorem fieldsOf_nnn (e : Entry) (w : Word) :
    (fieldsOf e w).nnn = if e.has .addr12 then some (cutNNN w) else none := by
  simp only [fieldsOf, Fields.merge, extract_nnn, Entry.has]
  by_cases h0 : e.kind0 = .addr12 <;> by_cases h1 : e.kind1 = .addr12 <;> simp [h0, h1]

/-- Operand fields suit an entry when each is present exactly where its kind is listed (R74). -/
theorem suits_iff {e : Entry} {f : Fields} : e.suits f = true ↔
    f.x.isSome = e.has .regHi ∧ f.y.isSome = e.has .regLo ∧ f.n.isSome = e.has .imm4
      ∧ f.kk.isSome = e.has .imm8 ∧ f.nnn.isSome = e.has .addr12 := by
  simp [Entry.suits, and_assoc]

/-- A field that is present exactly where `b` says, and then with the value `c`. -/
theorem ite_some_eq {α : Type} {o : Option α} {b : Bool} {c : α} (hb : o.isSome = b)
    (hc : b = true → ∀ v, o = some v → c = v) : (if b then some c else none) = o := by
  cases o with
  | none => simp_all
  | some v =>
    obtain rfl : true = b := hb
    rw [hc rfl v rfl, if_pos rfl]

/-- A slot reads from an encoded word what it wrote there (R74). -/
theorem extract_encodeFields {e : Entry} {k : Kind} (h : e.wellFormed = true)
    (hk : e.has k = true) (f : Fields) :
    extract k (encodeFields e f) = extract k (k.place f) := by
  rw [← extract_and_fbits, encodeFields_and_fbits h hk]

/-- The extractor inverts the encoder of a well-formed entry (R74). -/
theorem fieldsOf_encodeFields {e : Entry} {f : Fields} (h : e.wellFormed = true)
    (hf : e.suits f = true) : fieldsOf e (encodeFields e f) = f := by
  obtain ⟨hx, hy, hn, hkk, hnnn⟩ := suits_iff.1 hf
  rw [Fields.mk.injEq]
  refine ⟨?_, ?_, ?_, ?_, ?_⟩
  · rw [fieldsOf_x]
    refine ite_some_eq hx fun hk v hv => ?_
    simpa [Kind.place, hv] using congrArg Fields.x (extract_encodeFields h hk f)
  · rw [fieldsOf_y]
    refine ite_some_eq hy fun hk v hv => ?_
    simpa [Kind.place, hv] using congrArg Fields.y (extract_encodeFields h hk f)
  · rw [fieldsOf_n]
    refine ite_some_eq hn fun hk v hv => ?_
    simpa [Kind.place, hv] using congrArg Fields.n (extract_encodeFields h hk f)
  · rw [fieldsOf_kk]
    refine ite_some_eq hkk fun hk v hv => ?_
    simpa [Kind.place, hv] using congrArg Fields.kk (extract_encodeFields h hk f)
  · rw [fieldsOf_nnn]
    refine ite_some_eq hnnn fun hk v hv => ?_
    simpa [Kind.place, hv] using congrArg Fields.nnn (extract_encodeFields h hk f)

/-- A slot of a kind writes of a decoded word's fields the bits it read (R75). -/
theorem place_fieldsOf {e : Entry} {k : Kind} (hk : e.has k = true) (w : Word) :
    k.place (fieldsOf e w) = w &&& k.fbits := by
  cases k with
  | regHi | regLo | imm4 | imm8 | addr12 =>
    simp only [Kind.place, fieldsOf_x, fieldsOf_y, fieldsOf_n, fieldsOf_kk, fieldsOf_nnn, hk, if_true]
    apply BitVec.eq_of_getLsbD_eq
    intro i hi
    interval_cases i <;> simp [placeField, cutX, cutY, cutN, cutKK, cutNNN, Kind.fbits]
  | _ => simp [Kind.place, Kind.fbits]

/-- Encoding what a matching word decodes to gives back its opcode and field bits (R75, R113). -/
theorem encodeFields_fieldsOf {e : Entry} {w : Word} (hw : w &&& e.mask = e.pattern) :
    encodeFields e (fieldsOf e w) = w &&& (e.mask ||| e.fbits) := by
  simp only [encodeFields_eq_or, place_fieldsOf (has_kind0 e), place_fieldsOf (has_kind1 e),
    place_fieldsOf (has_kind2 e), ← hw, Entry.fbits, BitVec.and_or_distrib_left, BitVec.or_assoc]

/-- Part of a part is part of the whole, as an equation of masked words. -/
theorem and_eq_self_trans {a b c : Word} (hab : a &&& b = a) (hbc : b &&& c = b) : a &&& c = a := by
  rw [← hab, BitVec.and_assoc, hbc]

/-- The field bits of a slot are field bits of its entry (R72). -/
theorem slot_fbits_and {e : Entry} {k : Kind} (hk : e.has k = true) :
    k.fbits &&& e.fbits = k.fbits := by
  apply BitVec.eq_of_getLsbD_eq
  intro i hi
  simp only [Entry.fbits, BitVec.getLsbD_and, BitVec.getLsbD_or]
  obtain rfl | rfl | rfl := has_iff.1 hk
  all_goals grind

theorem and_not_eq_zero {a b : Word} (h : a &&& b = a) : a &&& ~~~b = 0 := by
  rw [← h, BitVec.and_assoc, BitVec.and_not_self]
  exact BitVec.and_zero

/-- The encoder writes 0 to every bit that is neither opcode nor field (R75). -/
theorem encodeFields_dontCare {e : Entry} (h : e.pattern &&& e.mask = e.pattern) (f : Fields) :
    encodeFields e f &&& ~~~(e.mask ||| e.fbits) = 0 := by
  have hpattern : e.pattern &&& ~~~(e.mask ||| e.fbits) = 0 := by
    simp [BitVec.not_or, ← BitVec.and_assoc, and_not_eq_zero h]
  have hslot {k : Kind} (hk : e.has k = true) : k.place f &&& ~~~(e.mask ||| e.fbits) = 0 := by
    have hoff := and_not_eq_zero (and_eq_self_trans (place_and_fbits k f) (slot_fbits_and hk))
    simp [BitVec.not_or, BitVec.and_comm (~~~e.mask), ← BitVec.and_assoc, hoff]
  simp [encodeFields_eq_or, mask_or, hpattern, hslot (has_kind0 e), hslot (has_kind1 e),
    hslot (has_kind2 e)]

/-- Words that agree on an entry's field bits give the same fields (R75). -/
theorem fieldsOf_congr {e : Entry} {v w : Word} (h : v &&& e.fbits = w &&& e.fbits) :
    fieldsOf e v = fieldsOf e w := by
  have hslot {k : Kind} (hk : e.has k = true) : extract k v = extract k w := by
    refine extract_congr ?_
    rw [← slot_fbits_and hk, BitVec.and_comm k.fbits, ← BitVec.and_assoc, h, BitVec.and_assoc]
  simp only [fieldsOf, hslot (has_kind0 e), hslot (has_kind1 e), hslot (has_kind2 e)]

end Sys2Proof
end

section
/-! The arbiter on the default table by arithmetic on the word (`30_encoding.md` R78, R79): each of its
five masks, and the opcode map in prose. -/

namespace Sys2Proof
open Expected

theorem top_lt (w : Word) : top w < 16 := by
  have := w.isLt
  unfold top
  omega

theorem and_FFFF (w : Word) : w &&& 0xFFFF#16 = w := BitVec.and_allOnes

/-- Under mask `0xF000` a word matches by its opcode nibble. -/
theorem and_F000_eq_iff {w p : Word} :
    w &&& 0xF000#16 = p ↔ top w = p.toNat / 4096 ∧ 0 = p.toNat % 4096 := by
  rw [← BitVec.toNat_inj, toNat_and_F000, top]
  omega

/-- Under mask `0xF00F` a word matches by its opcode nibble and its low nibble. -/
theorem and_F00F_eq_iff {w p : Word} :
    w &&& 0xF00F#16 = p ↔ top w = p.toNat / 4096 ∧ w.toNat % 16 = p.toNat % 4096 := by
  rw [← BitVec.toNat_inj, toNat_and_F00F, top]
  omega

/-- Under mask `0xF0FF` a word matches by its opcode nibble and its low byte. -/
theorem and_F0FF_eq_iff {w p : Word} :
    w &&& 0xF0FF#16 = p ↔ top w = p.toNat / 4096 ∧ low w = p.toNat % 4096 := by
  rw [← BitVec.toNat_inj, toNat_and_F0FF, top, low]
  omega

/-- The scan of the default table follows the opcode map: CLS and RET by the whole word, then, opcode
nibble by opcode nibble, the rows that are left. -/
theorem sel_defaultTable (w : Word) : sel true defaultTable w = opcodeMap w := by
  by_cases hcls : w = 0x00E0
  · subst hcls; decide
  by_cases hret : w = 0x00EE
  · subst hret; decide
  simp only [BitVec.ofNat_eq_ofNat] at hcls hret
  obtain ⟨t, ht⟩ : ∃ t, top w = t := ⟨_, rfl⟩
  have hlt : t < 16 := ht ▸ top_lt w
  unfold opcodeMap
  simp only [sel, defaultTable, defaultTable0, defaultTable1, defaultTable2, defaultTable3,
    List.cons_append, List.nil_append, selFrom_cons, selFrom_nil, hit_iff, BitVec.ofNat_eq_ofNat,
    and_F000_eq_iff, and_F00F_eq_iff, and_F0FF_eq_iff, and_FFFF, BitVec.toNat_ofNat, hcls, hret, ht]
  interval_cases t <;> simp
  -- left are the nibbles 8, E and F, where the map goes on to the low nibble or the low byte
  all_goals (symm; split <;> simp_all)

/-- Settles O39, by the scan of the table opcode nibble by opcode nibble. -/
theorem opcodeMapAgreesWithTheTableScan : Obligations.OpcodeMapAgreesWithTheTableScan := by
  unfold Obligations.OpcodeMapAgreesWithTheTableScan
  exact sel_defaultTable

end Sys2Proof
end

section
/-! The default table (`30_encoding.md` R77, R80): it is well-formed, and which of its entries share a
word; from that, which entry wins a word that an entry hits. -/

namespace Sys2Proof

/-! ### Well-formedness -/

/-- Every row keeps the three conditions of R77 on an entry. -/
theorem defaultTable_entries_wellFormed : ∀ e ∈ defaultTable, e.wellFormed = true := by decide

/-- A machine row wins its own pattern, the word with every operand 0. -/
theorem sel_pattern_defaultTable : ∀ i : Fin defaultTable.length, defaultTable[i].cls = .machine →
    sel true defaultTable defaultTable[i].pattern = some i.1 := by decide

/-- An entry that wins some word is reachable (R77 (d)). -/
theorem reachable_of_sel {T : Table} {w : Word} {i : Nat} (h : sel true T w = some i) :
    Table.reachable T i :=
  ⟨w, sel_eq_some_iff.1 h⟩

/-- Settles O38: entry by entry, with its own pattern as the word that a machine row wins. -/
theorem defaultTableIsWellFormed : Obligations.DefaultTableIsWellFormed := by
  unfold Obligations.DefaultTableIsWellFormed
  refine ⟨defaultTable_entries_wellFormed, fun i e he hcls => ?_, by decide⟩
  obtain ⟨hi, rfl⟩ := List.getElem?_eq_some_iff.1 he
  exact reachable_of_sel (sel_pattern_defaultTable ⟨i, hi⟩ hcls)

/-! ### Entries that share a word -/

theorem or_and_self (a m : Word) : a ||| a &&& m = a := by
  apply BitVec.eq_of_getLsbD_eq
  intro i hi
  simpa using fun h _ => h

/-- Two entries that keep the entry invariant match a common word exactly where their patterns agree on
the bits both test. -/
theorem exists_isMatch_both_iff {a b : Entry} (ha : a.pattern &&& a.mask = a.pattern)
    (hb : b.pattern &&& b.mask = b.pattern) :
    (∃ w : Word, a.isMatch w = true ∧ b.isMatch w = true) ↔
      a.pattern &&& b.mask = b.pattern &&& a.mask := by
  simp only [isMatch_iff]
  constructor
  · rintro ⟨w, hwa, hwb⟩
    rw [← hwa, ← hwb, BitVec.and_assoc, BitVec.and_assoc, BitVec.and_comm a.mask]
  · intro h
    refine ⟨a.pattern ||| b.pattern, ?_, ?_⟩
    · rw [mask_or, ha, ← h, or_and_self]
    · rw [mask_or, hb, h, BitVec.or_comm, or_and_self]

/-- The pairs of rows that R80 lists as having a word in common. -/
def sharingRows : List (Nat × Nat) := [(0, 2), (1, 2), (0, 35), (1, 35), (2, 35)]

theorem patterns_agree_iff_sharingRows : ∀ i j : Fin defaultTable.length, i < j →
    (defaultTable[i].pattern &&& defaultTable[j].mask
      = defaultTable[j].pattern &&& defaultTable[i].mask ↔ (i.1, j.1) ∈ sharingRows) := by decide

theorem patternInMask_of_row {i : Nat} {e : Entry} (he : defaultTable[i]? = some e) :
    e.pattern &&& e.mask = e.pattern :=
  (entry_wellFormed_iff.1 (defaultTable_entries_wellFormed e (List.mem_of_getElem? he))).1

/-- Two rows match a common word exactly where the pair is listed (R80). -/
theorem exists_isMatch_rows_iff {i j : Nat} {a b : Entry} (hij : i < j)
    (ha : defaultTable[i]? = some a) (hb : defaultTable[j]? = some b) :
    (∃ w : Word, a.isMatch w = true ∧ b.isMatch w = true) ↔ (i, j) ∈ sharingRows := by
  rw [exists_isMatch_both_iff (patternInMask_of_row ha) (patternInMask_of_row hb)]
  obtain ⟨hi, rfl⟩ := List.getElem?_eq_some_iff.1 ha
  obtain ⟨hj, rfl⟩ := List.getElem?_eq_some_iff.1 hb
  exact patterns_agree_iff_sharingRows ⟨i, hi⟩ ⟨j, hj⟩ hij

/-- An entry that hits is a machine entry that matches. -/
theorem hitAt_true_iff {T : Table} {i : Nat} {w : Word} : hitAt true T i w = true ↔
    ∃ e, T[i]? = some e ∧ e.cls = .machine ∧ e.isMatch w = true := by
  cases he : T[i]? with
  | none => simp [hitAt_none w he]
  | some e => simp [hitAt_some w he, hit_iff, isMatch_iff]

/-- The last row is `DB`'s, a pseudo-directive: it hits no word (R102, R190). -/
theorem ne_35_of_hitAt {i : Nat} {w : Word} (h : hitAt true defaultTable i w = true) : i ≠ 35 := by
  rintro rfl
  obtain ⟨e, he, hcls, -⟩ := hitAt_true_iff.1 h
  cases he
  cases hcls

theorem hitAt_cls_iff {w : Word} : hitAt true defaultTable 0 w = true ↔ w = 0x00E0 := by
  simp [hitAt, defaultTable, defaultTable0, hit_iff, and_FFFF]

theorem hitAt_ret_iff {w : Word} : hitAt true defaultTable 1 w = true ↔ w = 0x00EE := by
  simp [hitAt, defaultTable, defaultTable0, hit_iff, and_FFFF]

theorem hitAt_sys_iff {w : Word} : hitAt true defaultTable 2 w = true ↔ w &&& 0xF000#16 = 0 := by
  simp [hitAt, defaultTable, defaultTable0, hit_iff]

/-- Two machine rows hit one word only where SYS stands behind CLS or RET, on the word of that (R80). -/
theorem hitAt_twice {i j : Nat} {w : Word} (hij : i < j) (hi : hitAt true defaultTable i w = true)
    (hj : hitAt true defaultTable j w = true) : j = 2 ∧ (w = 0x00E0 ∨ w = 0x00EE) := by
  obtain ⟨a, ha, -, hwa⟩ := hitAt_true_iff.1 hi
  obtain ⟨b, hb, -, hwb⟩ := hitAt_true_iff.1 hj
  have hpair := (exists_isMatch_rows_iff hij ha hb).1 ⟨w, hwa, hwb⟩
  have hdb := ne_35_of_hitAt hj
  simp only [sharingRows, List.mem_cons, Prod.mk.injEq, List.not_mem_nil, or_false] at hpair
  obtain ⟨rfl, rfl⟩ | ⟨rfl, rfl⟩ : i = 0 ∧ j = 2 ∨ i = 1 ∧ j = 2 := by omega
  · exact ⟨rfl, .inl (hitAt_cls_iff.1 hi)⟩
  · exact ⟨rfl, .inr (hitAt_ret_iff.1 hi)⟩

/-- A row that hits a word wins it, but for SYS on the words of CLS and RET (R74, R80). -/
theorem sel_eq_some_iff_of_hitAt {i : Nat} {w : Word} (hi : hitAt true defaultTable i w = true) :
    sel true defaultTable w = some i ↔ ¬ (i = 2 ∧ (w = 0x00E0 ∨ w = 0x00EE)) := by
  constructor
  · rintro hsel ⟨rfl, rfl | rfl⟩
    · exact absurd hsel (by decide)
    · exact absurd hsel (by decide)
  · intro hsys
    refine sel_eq_some_iff.2 ⟨hi, fun j hj => ?_⟩
    rw [← Bool.not_eq_true]
    exact fun hhit => hsys (hitAt_twice hj hhit hi)

/-! ### Testing the pseudo-directive -/

/-- What `DB`'s row matches: the words with a high byte of 0 (R80). -/
theorem hitAt_db_iff {w : Word} : hitAt false defaultTable 35 w = true ↔ w.toNat ≤ 0x00FF := by
  have hrow : hitAt false defaultTable 35 w = true ↔ w &&& 0xFF00#16 = 0 := by
    simp [hitAt, defaultTable, defaultTable0, defaultTable1, defaultTable2, defaultTable3, Entry.hit,
      isMatch_iff]
  rw [hrow, ← BitVec.toNat_inj, toNat_and_FF00]
  simp
  omega

/-- SYS, which stands before `DB`, hits every word that `DB` matches (R80). -/
theorem hitAt_sys_of_le {w : Word} (h : w.toNat ≤ 0x00FF) : hitAt true defaultTable 2 w = true := by
  rw [hitAt_sys_iff, ← BitVec.toNat_inj, toNat_and_F000]
  simp
  omega

theorem cls_defaultTable : ∀ i : Fin defaultTable.length, i.1 ≠ 35 →
    defaultTable[i].cls = .machine := by decide

/-- Testing pseudo-directives too makes no difference to any row but `DB`'s (R102). -/
theorem hitAt_false_of_ne_35 {i : Nat} (h : i ≠ 35) (w : Word) :
    hitAt false defaultTable i w = hitAt true defaultTable i w := by
  by_cases hi : i < defaultTable.length
  · have hcls : defaultTable[i].cls = .machine := cls_defaultTable ⟨i, hi⟩ h
    simp only [hitAt_getElem w hi, Entry.hit, hcls]
    rfl
  · have hnone : defaultTable[i]? = none := List.getElem?_eq_none (Nat.le_of_not_lt hi)
    rw [hitAt_none w hnone, hitAt_none w hnone]

/-- Testing pseudo-directives too changes no winner (R80). -/
theorem sel_skip_defaultTable (w : Word) :
    sel false defaultTable w = sel true defaultTable w := by
  refine Option.ext fun i => ?_
  have hsame {j : Nat} (hj : j ≠ 35) := hitAt_false_of_ne_35 hj w
  rw [sel_eq_some_iff, sel_eq_some_iff]
  constructor
  · rintro ⟨hhit, hfirst⟩
    have hi := lt_length_of_hitAt hhit
    have hdb : i ≠ 35 := by
      rintro rfl
      have hsys := hitAt_sys_of_le (hitAt_db_iff.1 hhit)
      simp [← hsame, hfirst] at hsys
    refine ⟨hsame hdb ▸ hhit, fun j hj => ?_⟩
    rw [← hsame (by simp at hi; omega), hfirst j hj]
  · rintro ⟨hhit, hfirst⟩
    have hi := lt_length_of_hitAt hhit
    refine ⟨(hsame (ne_35_of_hitAt hhit)).trans hhit, fun j hj => ?_⟩
    rw [hsame (by simp at hi; omega), hfirst j hj]

/-- Settles O40: rows share a word where their patterns agree on the bits both test. -/
theorem overlapsOfTheDefaultTable : Obligations.OverlapsOfTheDefaultTable := by
  unfold Obligations.OverlapsOfTheDefaultTable
  refine ⟨fun i j a b => exists_isMatch_rows_iff, fun w => ⟨?_, ?_⟩, by decide, by decide,
    fun w => hitAt_db_iff, fun w hw => ⟨2, by decide, hitAt_sys_of_le hw⟩, fun vr w => ?_⟩
  · rintro ⟨i, j, hij, hi, hj⟩
    exact (hitAt_twice hij hi hj).2
  · rintro (rfl | rfl)
    · exact ⟨0, 2, by decide⟩
    · exact ⟨1, 2, by decide⟩
  · simp only [decodeWith, sel_skip_defaultTable]

/-! ### Round trips -/

/-- For a well-formed entry that no earlier one shadows on the word, decode inverts encode (R74). -/
theorem decodeWith_encodeFields {T : Table} {vr : VfReject} {i : Nat} {e : Entry} {f : Fields}
    (hT : ∀ e ∈ T, e.wellFormed = true) (he : T[i]? = some e) (hf : e.suits f = true)
    (hsel : sel true T (encodeFields e f) = some i)
    (hvf : vfRejected vr i e (encodeFields e f) = false) :
    decodeWith true T vr (encodeFields e f) = .decoded i f :=
  decodeWith_eq_decoded_iff.2
    ⟨hsel, e, he, hvf, (fieldsOf_encodeFields (hT e (List.mem_of_getElem? he)) hf).symm⟩

/-- An entry hits the words it encodes. -/
theorem hitAt_encodeFields {T : Table} {i : Nat} {e : Entry} (hT : ∀ e ∈ T, e.wellFormed = true)
    (he : T[i]? = some e) (hcls : e.cls = .machine) (f : Fields) :
    hitAt true T i (encodeFields e f) = true :=
  hitAt_true_iff.2 ⟨e, he, hcls,
    isMatch_iff.2 (encodeFields_and_mask (hT e (List.mem_of_getElem? he)) f)⟩

@[simp] theorem vfRejected_nil (i : Nat) (e : Entry) (w : Word) : vfRejected [] i e w = false := by
  simp [vfRejected, slotRejected]

/-- A word of the SYS row is its address (R132). -/
theorem eq_setWidth_iff_cutNNN {w : Word} (hw : w &&& 0xF000#16 = 0) (a : Addr12) :
    w = a.setWidth 16 ↔ cutNNN w = a := by
  constructor
  · rintro rfl
    apply BitVec.eq_of_getLsbD_eq
    intro i hi
    simp [cutNNN, hi]
    omega
  · rintro rfl
    simpa [hw] using (opcode_or_cutNNN w).symm

/-- The words SYS loses to CLS and RET, by the address (R74). -/
theorem encodeFields_sys_iff {e : Entry} {f : Fields} (he : defaultTable[2]? = some e)
    (hf : e.suits f = true) : (encodeFields e f = 0x00E0 ∨ encodeFields e f = 0x00EE) ↔
      (f.nnn = some 0x0E0 ∨ f.nnn = some 0x0EE) := by
  have hwf := defaultTable_entries_wellFormed e (List.mem_of_getElem? he)
  have hmask := encodeFields_and_mask hwf f
  have hnnn : f.nnn = some (cutNNN (encodeFields e f)) := by
    conv_lhs => rw [← fieldsOf_encodeFields hwf hf, fieldsOf_nnn]
    cases he
    rfl
  cases he
  simp only [hnnn, Option.some.injEq, ← eq_setWidth_iff_cutNNN hmask]
  rfl

/-- Settles O32: an entry hits what it encodes, and in the default table only SYS, on the words of CLS and
RET, does not win what it hits. -/
theorem encodeThenDecodeGivesFormatAndOperandsBack :
    Obligations.EncodeThenDecodeGivesFormatAndOperandsBack := by
  unfold Obligations.EncodeThenDecodeGivesFormatAndOperandsBack
  refine ⟨?_, ?_, by decide, by decide⟩
  · rintro T vr i e f ⟨hT, -, -⟩ he hcls hf hfirst hvf
    exact decodeWith_encodeFields hT he hf
      (sel_eq_some_iff.2 ⟨hitAt_encodeFields hT he hcls f, hfirst⟩) hvf
  · intro i e f he hcls hf
    have hhit := hitAt_encodeFields defaultTable_entries_wellFormed he hcls f
    have hwins : sel true defaultTable (encodeFields e f) = some i ↔
        ¬ (i = 2 ∧ (f.nnn = some 0x0E0 ∨ f.nnn = some 0x0EE)) := by
      rw [sel_eq_some_iff_of_hitAt hhit]
      exact not_congr (and_congr_right fun hi => encodeFields_sys_iff (hi ▸ he) hf)
    rw [← hwins]
    exact ⟨fun h => (decodeWith_eq_decoded_iff.1 h).1, fun hsel =>
      decodeWith_encodeFields defaultTable_entries_wellFormed he hf hsel (vfRejected_nil ..)⟩

end Sys2Proof
end

section
/-! Encoding and decoding instructions (`30_encoding.md` R60, R73 to R75, R90; `20_memory.md` R42, R43):
words, bytes and images. -/

namespace Sys2Proof
open Machine Laws

/-! ### Words -/

/-- Every instruction's word matches the instruction's own row, which gives the instruction back. -/
theorem ownRow : ∀ i : Instr, Laws.OwnRow.Statement i
  | .cls => OwnRow.cls | .ret => OwnRow.ret | .sys _ => OwnRow.sys _ | .jp _ => OwnRow.jp _
  | .call _ => OwnRow.call _ | .seByte _ _ => OwnRow.seByte _ _
  | .sneByte _ _ => OwnRow.sneByte _ _ | .seReg _ _ => OwnRow.seReg _ _
  | .ldByte _ _ => OwnRow.ldByte _ _ | .addByte _ _ => OwnRow.addByte _ _
  | .ldReg _ _ => OwnRow.ldReg _ _ | .orReg _ _ => OwnRow.orReg _ _
  | .andReg _ _ => OwnRow.andReg _ _ | .xorReg _ _ => OwnRow.xorReg _ _
  | .addReg _ _ => OwnRow.addReg _ _ | .subReg _ _ => OwnRow.subReg _ _
  | .shrReg _ _ => OwnRow.shrReg _ _ | .subnReg _ _ => OwnRow.subnReg _ _
  | .shlReg _ _ => OwnRow.shlReg _ _ | .sneReg _ _ => OwnRow.sneReg _ _ | .ldI _ => OwnRow.ldI _
  | .jpV0 _ => OwnRow.jpV0 _ | .rnd _ _ => OwnRow.rnd _ _ | .drw _ _ _ => OwnRow.drw _ _ _
  | .skp _ => OwnRow.skp _ | .sknp _ => OwnRow.sknp _ | .ldVxDt _ => OwnRow.ldVxDt _
  | .ldVxK _ => OwnRow.ldVxK _ | .ldDtVx _ => OwnRow.ldDtVx _ | .ldStVx _ => OwnRow.ldStVx _
  | .addIVx _ => OwnRow.addIVx _ | .ldFVx _ => OwnRow.ldFVx _ | .ldBVx _ => OwnRow.ldBVx _
  | .ldIndVx _ => OwnRow.ldIndVx _ | .ldVxInd _ => OwnRow.ldVxInd _ | .db _ => OwnRow.db _

/-- The encoding of an instruction is that of its row, with the instruction's operands (R73). -/
theorem encode_of_row {i : Instr} {e : Entry} (he : defaultTable[i.fmt]? = some e) :
    encode i = encodeFields e i.fields := by
  simp only [encode, he]

/-- What an entry cuts from a word suits it (R74, R107). -/
theorem suits_fieldsOf (e : Entry) (w : Word) : e.suits (fieldsOf e w) = true := by
  have hsome {α : Type} (b : Bool) (c : α) : (if b then some c else none).isSome = b := by
    cases b <;> rfl
  simp only [suits_iff, fieldsOf_x, fieldsOf_y, fieldsOf_n, fieldsOf_kk, fieldsOf_nnn, hsome, and_self]

/-- An instruction's operands suit its row. -/
theorem suits_fields {i : Instr} {e : Entry} (he : defaultTable[i.fmt]? = some e) :
    e.suits i.fields = true := by
  rw [(instrAt_spec he (ownRow i).2).2]
  exact suits_fieldsOf e (encode i)

/-- The word of an instruction but `DB` hits the instruction's row. -/
theorem hitAt_encode {i : Instr} (hdb : i.fmt ≠ 35) :
    hitAt true defaultTable i.fmt (encode i) = true := by
  obtain ⟨⟨e, he, hmatch⟩, -⟩ := ownRow i
  rw [← hitAt_false_of_ne_35 hdb, hitAt_some _ he, Entry.hit, hmatch]
  simp

/-- The well-formed instructions are those whose own row wins their word (R74, R190): all but `DB`, whose
row never hits, and SYS where its word is that of CLS or RET. -/
theorem instr_wellFormed_iff {i : Instr} : i.wellFormed = true ↔
    i.fmt ≠ 35 ∧ ¬ (i.fmt = 2 ∧ (encode i = 0x00E0 ∨ encode i = 0x00EE)) := by
  cases i with
  | sys nnn =>
    have hrow : defaultTable[(Instr.sys nnn).fmt]? = some _ := rfl
    rw [encode_of_row hrow, encodeFields_sys_iff hrow (suits_fields hrow)]
    simp [Instr.wellFormed, Instr.fmt, Instr.fields]
  | _ => simp [Instr.wellFormed, Instr.fmt]

/-- A well-formed instruction's word decodes to the instruction (R74, R114). -/
theorem decodeWord_encode {i : Instr} (hi : i.wellFormed = true) : decodeWord (encode i) = some i := by
  obtain ⟨hdb, hsys⟩ := instr_wellFormed_iff.1 hi
  have hsel : sel true defaultTable (encode i) = some i.fmt :=
    (sel_eq_some_iff_of_hitAt (hitAt_encode hdb)).2 hsys
  rw [decodeWord, Config.skipPseudo, hsel]
  exact (ownRow i).2

/-- What a word decodes to is an instruction of the winner's row, with the operands the row cuts. -/
theorem winner_of_decodeWord {w : Word} {i : Instr} (h : decodeWord w = some i) :
    sel true defaultTable w = some i.fmt ∧
      ∃ e, defaultTable[i.fmt]? = some e ∧ i.fields = fieldsOf e w := by
  obtain ⟨k, hsel, hk⟩ := Option.bind_eq_some_iff.1 h
  have he := List.getElem?_eq_getElem (sel_lt hsel)
  obtain ⟨rfl, hfields⟩ := instrAt_spec he hk
  exact ⟨hsel, _, he, hfields⟩

/-- A machine row of the default table has no don't-care bits (R75). -/
theorem mask_or_fbits_defaultTable : ∀ e ∈ defaultTable, e.cls = .machine →
    e.mask ||| e.fbits = 0xFFFF := by decide

/-- A word that decodes is the encoding of what it decodes to (R75, R113). -/
theorem encode_of_decodeWord {w : Word} {i : Instr} (h : decodeWord w = some i) : encode i = w := by
  obtain ⟨hsel, e, he, hfields⟩ := winner_of_decodeWord h
  obtain ⟨hcls, hmatch⟩ := winner_machine_match hsel he
  rw [encode_of_row he, hfields, encodeFields_fieldsOf hmatch,
    mask_or_fbits_defaultTable e (List.mem_of_getElem? he) hcls]
  exact and_FFFF w

/-- Settles O34: decoding cuts every bit that is not opcode, and SYS never wins from CLS or RET. -/
theorem encodeInvertsDecodeForEveryWord : Obligations.EncodeInvertsDecodeForEveryWord := by
  unfold Obligations.EncodeInvertsDecodeForEveryWord
  intro w i h
  have henc := encode_of_decodeWord h
  obtain ⟨hsel, -⟩ := winner_of_decodeWord h
  have hhit := (sel_eq_some_iff.1 hsel).1
  refine ⟨henc, instr_wellFormed_iff.2 ⟨ne_35_of_hitAt hhit, ?_⟩⟩
  rw [henc]
  exact (sel_eq_some_iff_of_hitAt hhit).1 hsel

/-- Words that differ in no bit of a mask are alike under it. -/
theorem and_eq_of_xor_and {v w m : Word} (h : (v ^^^ w) &&& m = 0) : v &&& m = w &&& m := by
  refine BitVec.xor_eq_zero_iff.1 (Eq.trans ?_ h)
  apply BitVec.eq_of_getLsbD_eq
  intro i hi
  simp [Bool.and_xor_distrib_right]

/-- Settles O31: a slot reads its field bits alone, and the encoder writes opcode and field bits alone. -/
theorem dontCareBitsAreIgnored : Obligations.DontCareBitsAreIgnored := by
  unfold Obligations.DontCareBitsAreIgnored
  refine ⟨fun T vr w w' i e he hw hw' hagree => ?_, fun e f he => ?_, mask_or_fbits_defaultTable⟩
  · have hfields : fieldsOf e w = fieldsOf e w' := by
      rw [BitVec.and_or_distrib_left] at hagree
      exact fieldsOf_congr (and_eq_of_xor_and (BitVec.or_eq_zero_iff.1 hagree).2)
    simp only [decodeWith, hw, hw', he, ← operandsRejected_fieldsOf he, hfields]
  · exact encodeFields_dontCare (by simpa [Entry.patternInMask] using he) f

/-! ### Bytes -/

/-- An instruction line but `DB`'s puts the two bytes of its word into the image (R60, R90). -/
theorem encodeBytes_of_ne_35 {i : Instr} (hdb : i.fmt ≠ 35) :
    encodeBytes i = bytesOfWord (encode i) := by
  cases i with
  | db kk => exact absurd rfl hdb
  | _ => rfl

/-- The bytes of a word, with anything behind them, decode to what the word does (R42, R60). -/
theorem decode_bytesOfWord {w : Word} {i : Instr} (rest : List Byte) (h : decodeWord w = some i) :
    decode (bytesOfWord w ++ rest) = .ok (i, rest) := by
  simp [bytesOfWord, decode, wordOfBytes_halves, h]

/-- Settles O33: a well-formed instruction's word decodes to it, and its two bytes are its word's. -/
theorem decodeInvertsEncodeForEveryInstruction :
    Obligations.DecodeInvertsEncodeForEveryInstruction := by
  unfold Obligations.DecodeInvertsEncodeForEveryInstruction
  intro i rest hi
  have hword := decodeWord_encode hi
  refine ⟨hword, ?_⟩
  rw [encodeBytes_of_ne_35 (instr_wellFormed_iff.1 hi).1]
  exact decode_bytesOfWord rest hword

/-- What bytes decode to is what the first two decode to as one word (R42, R60). -/
theorem word_of_decode_ok {bs rest : List Byte} {i : Instr} (h : decode bs = .ok (i, rest)) :
    ∃ hi lo, bs = hi :: lo :: rest ∧ decodeWord (wordOfBytes hi lo) = some i := by
  match bs with
  | [] | [_] => cases h
  | hi :: lo :: rest' =>
    cases hw : decodeWord (wordOfBytes hi lo) with
    | none => simp [decode, hw] at h
    | some j =>
      obtain ⟨rfl, rfl⟩ : j = i ∧ rest' = rest := by simpa [decode, hw] using h
      exact ⟨hi, lo, rfl, hw⟩

theorem decode_of_length_lt {bs : List Byte} (h : bs.length < 2) :
    decode bs = .error .noWholeWord := by
  match bs with
  | [] | [_] => rfl
  | _ :: _ :: _ => simp at h

/-- Settles O35: two bytes, one word. -/
theorem everyInstructionTakesExactlyOneWord : Obligations.EveryInstructionTakesExactlyOneWord := by
  unfold Obligations.EveryInstructionTakesExactlyOneWord
  refine ⟨fun bs rest i => word_of_decode_ok, fun bs => decode_of_length_lt, ?_⟩
  intro pre hi lo post
  simp [fetchWord, wordOfBytes]

/-! ### Images -/

/-- An image that begins with a word's bytes holds the word first (R42). -/
theorem imageWords_bytesOfWord (w : Word) (rest : List Byte) :
    imageWords (bytesOfWord w ++ rest) = w :: imageWords rest := by
  simp [bytesOfWord, imageWords, wordOfBytes_halves]

theorem fetchWord_cons_succ (b : Byte) (image : List Byte) (a : Nat) :
    fetchWord (b :: image) (a + 1) = fetchWord image a := rfl

/-- Settles O36: by induction on the instructions, one word of the image for each. -/
theorem imageHoldsTheWordsInOrder : Obligations.ImageHoldsTheWordsInOrder := by
  unfold Obligations.ImageHoldsTheWordsInOrder
  refine ⟨fun is hdb => ?_, fun k is a => fetchWord_cons_succ k _ a⟩
  induction is with
  | nil => rfl
  | cons i is ih =>
    obtain ⟨hi, his⟩ := List.forall_mem_cons.1 hdb
    rw [List.flatMap_cons, encodeBytes_of_ne_35 hi, imageWords_bytesOfWord, ih his, List.map_cons]

end Sys2Proof
end

section
/-! The illegal words of the default table, and the document's checks on it (`30_encoding.md` R81, R83;
`95_test_vectors.md` 2.2, 2.3). -/

namespace Sys2Proof
open Expected

/-! ### Illegal words -/

/-- Without a restriction the decode is IllegalOpcode exactly where no entry wins (R111). -/
theorem decodeWith_nil_eq_illegalOpcode_iff {T : Table} {w : Word} :
    decodeWith true T [] w = .illegalOpcode ↔ sel true T w = none := by
  unfold decodeWith
  cases hsel : sel true T w with
  | none => simp
  | some i => simp [List.getElem?_eq_getElem (sel_lt hsel)]

/-- The rows of R81, for a word with opcode nibble `t`, low nibble `n` and low byte `b`. -/
abbrev illegalRow (t n b : Nat) : Prop :=
  (t = 5 ∧ n ≠ 0)
    ∨ (t = 8 ∧ n ∈ [0x8, 0x9, 0xA, 0xB, 0xC, 0xD, 0xF])
    ∨ (t = 9 ∧ n ≠ 0)
    ∨ (t = 14 ∧ b ∉ [0x9E, 0xA1])
    ∨ (t = 15 ∧ b ∉ [0x07, 0x0A, 0x15, 0x18, 0x1E, 0x29, 0x33, 0x55, 0x65])

/-- Where the opcode map leads to no entry (R79, R81). -/
theorem opcodeMap_eq_none_iff (w : Word) :
    opcodeMap w = none ↔ illegalRow (top w) (w.toNat % 16) (low w) := by
  have hlt : top w < 16 := top_lt w
  have hnibble : w.toNat % 16 < 16 := Nat.mod_lt _ (by decide)
  unfold opcodeMap illegalRow
  generalize top w = t at hlt ⊢
  generalize w.toNat % 16 = n at hnibble ⊢
  interval_cases t <;> simp
  -- left are the nibbles 0, 8, E and F, where the map goes on to other bits of the word
  · split_ifs <;> simp
  · interval_cases n <;> simp
  · split <;> simp_all
  · split <;> simp_all

theorem decodeWith_eq_illegalOpcode_iff (w : Word) :
    decodeWith true defaultTable [] w = .illegalOpcode ↔
      illegalRow (top w) (w.toNat % 16) (low w) := by
  rw [decodeWith_nil_eq_illegalOpcode_iff, sel_defaultTable, opcodeMap_eq_none_iff]

/-- Counting block by block. -/
theorem count_mul_eq_sum (p : Nat → Prop) [DecidablePred p] (m a : Nat) : Nat.count p (m * a) =
    ((List.range m).map fun h => Nat.count (fun k => p (h * a + k)) a).sum := by
  induction m with
  | zero => simp
  | succ m ih => simp [Nat.succ_mul, Nat.count_add, List.range_succ, ih]

/-- Over `m` periods of a predicate the count is `m` times that over one. -/
theorem count_mul_of_periodic {p : Nat → Prop} [DecidablePred p] {a : Nat}
    (hp : Function.Periodic p a) (m : Nat) : Nat.count p (m * a) = m * Nat.count p a := by
  have hblock (h k : Nat) : p (h * a + k) = p k := by
    rw [Nat.add_comm]
    exact hp.nat_mul h k
  simp [count_mul_eq_sum, hblock]

theorem illegalRow_periodic (t : Nat) :
    Function.Periodic (fun k => illegalRow t (k % 16) (k % 256)) 256 := by
  intro k
  have hnibble : (k + 256) % 16 = k % 16 := by omega
  simp only [hnibble, Nat.add_mod_right]

/-- The illegal words under an opcode nibble, counted over one round of the low byte. -/
theorem countP_illegal {t : Nat} (ht : t < 16) : ((List.range 4096).countP fun k =>
    decodeWith true defaultTable [] (BitVec.ofNat 16 (4096 * t + k)) == .illegalOpcode)
      = 16 * Nat.count (fun k => illegalRow t (k % 16) (k % 256)) 256 := by
  rw [← count_mul_of_periodic (illegalRow_periodic t)]
  refine List.countP_congr fun k hk => ?_
  have hk : k < 4096 := List.mem_range.1 hk
  have hw : (BitVec.ofNat 16 (4096 * t + k)).toNat = 4096 * t + k := by
    simp
    omega
  rw [beq_iff_eq, decide_eq_true_iff, decodeWith_eq_illegalOpcode_iff, top, low, hw,
    show (4096 * t + k) / 4096 = t by omega, show (4096 * t + k) % 16 = k % 16 by omega,
    show (4096 * t + k) % 256 = k % 256 by omega]

/-- Settles O41: the map leads nowhere exactly on the listed rows, which are counted nibble by nibble. -/
theorem illegalWordsOfTheDefaultTable : Obligations.IllegalWordsOfTheDefaultTable := by
  unfold Obligations.IllegalWordsOfTheDefaultTable
  refine ⟨decodeWith_eq_illegalOpcode_iff, ?_, by decide, by decide⟩
  rw [List.map_congr_left fun t ht => countP_illegal (List.mem_range.1 ht)]
  simp only [count_mul_eq_sum _ 16 16]
  decide

/-! ### Single words and the document's checks -/

/-- Settles O1: each word is evaluated. -/
theorem specWordsDecodeToTheirInstructions : Obligations.SpecWordsDecodeToTheirInstructions := by
  unfold Obligations.SpecWordsDecodeToTheirInstructions
  decide

/-- Settles O37: the anchored words are evaluated, the invariants are those of a well-formed, ordered
table. -/
theorem defaultTablePassesTheDocumentsChecks :
    Obligations.DefaultTablePassesTheDocumentsChecks := by
  unfold Obligations.DefaultTablePassesTheDocumentsChecks
  refine ⟨by decide, by decide, by decide, fun e he => ?_, defaultTable_ordered, fun e _ => rfl,
    by decide, fun k => rfl, by decide⟩
  simpa [Entry.patternInMask] using
    (entry_wellFormed_iff.1 (defaultTable_entries_wellFormed e he)).1

end Sys2Proof
end

section
/-! The arbiter and the extractor for every table (`40_decode_operation.md` R101 to R107): the lowest hit
wins, found by a scan or by a priority encoder, and the fields are cut by kind. -/

namespace Sys2Proof
open Machine

/-! ### The arbiter -/

/-- Entries with the same mask and pattern match the same words (R101). -/
theorem isMatch_congr {e e' : Entry} (hmask : e.mask = e'.mask) (hpattern : e.pattern = e'.pattern)
    (w : Word) : e.isMatch w = e'.isMatch w := by
  rw [Bool.eq_iff_iff, isMatch_iff, isMatch_iff, hmask, hpattern]

/-- Settles O22: the match predicate is an equation of mask, pattern and word alone. -/
theorem matchComparesOnlyTheMaskedWordWithThePattern :
    Obligations.MatchComparesOnlyTheMaskedWordWithThePattern := by
  unfold Obligations.MatchComparesOnlyTheMaskedWordWithThePattern
  exact fun e e' w => ⟨isMatch_iff, fun hmask hpattern => isMatch_congr hmask hpattern w⟩

/-- There is no winner exactly where nothing hits (R104). -/
theorem sel_eq_none_iff {skip : Bool} {T : Table} {w : Word} :
    sel skip T w = none ↔ ∀ i, hitAt skip T i w = false := by
  constructor
  · intro hnone
    by_contra! hhit
    simp only [ne_eq, Bool.not_eq_false] at hhit
    have hwins : sel skip T w = some (Nat.find hhit) :=
      sel_eq_some_iff.2 ⟨Nat.find_spec hhit, fun j hj => by simpa using Nat.find_min hhit hj⟩
    cases hnone.symm.trans hwins
  · intro hnohit
    by_contra hsome
    obtain ⟨i, hi⟩ := Option.ne_none_iff_exists'.1 hsome
    cases (hnohit i).symm.trans (sel_eq_some_iff.1 hi).1

/-- The entries up to `i` hit alike whatever stands behind them. -/
theorem hitAt_take_append {skip : Bool} {T : Table} {i j : Nat} (hj : j ≤ i) (hi : i < T.length)
    (rest : Table) (w : Word) : hitAt skip (T.take (i + 1) ++ rest) j w = hitAt skip T j w := by
  have hentry : (T.take (i + 1) ++ rest)[j]? = T[j]? := by
    rw [List.getElem?_append_left (by simp; omega), List.getElem?_take_of_lt (by omega)]
  simp only [hitAt, hentry]

/-- Replacing everything behind the winner changes nothing (R104). -/
theorem sel_take_append {skip : Bool} {T : Table} {w : Word} {i : Nat} (h : sel skip T w = some i)
    (rest : Table) : sel skip (T.take (i + 1) ++ rest) w = some i := by
  obtain ⟨hhit, hfirst⟩ := sel_eq_some_iff.1 h
  refine sel_eq_some_iff.2 ⟨?_, fun j hj => ?_⟩
  · rw [hitAt_take_append le_rfl (sel_lt h), hhit]
  · rw [hitAt_take_append hj.le (sel_lt h), hfirst j hj]

/-- Settles O25: the scan finds the first hit, and the entries up to it decide. -/
theorem lowestHitWins : Obligations.LowestHitWins := by
  unfold Obligations.LowestHitWins
  exact fun skip T w =>
    ⟨fun i => sel_eq_some_iff, sel_eq_none_iff, fun i h => ⟨sel_lt h, sel_take_append h⟩⟩

/-- The hit bits of the parallel form are those of the entries that hit (R105). -/
theorem mem_hitIndices_iff {skip : Bool} {T : Table} {w : Word} {i : Nat} :
    i ∈ hitIndices skip T w ↔ hitAt skip T i w = true := by
  rw [hitIndices, List.mem_filter, List.mem_range]
  exact and_iff_right_of_imp lt_length_of_hitAt

/-- Settles O26: the least hit index is the index that hits with no hit below it. -/
theorem parallelAndSequentialArbitrationAgree :
    Obligations.ParallelAndSequentialArbitrationAgree := by
  unfold Obligations.ParallelAndSequentialArbitrationAgree
  intro skip T w
  refine Option.ext fun i => ?_
  rw [selParallel, List.min?_eq_some_iff, sel_eq_some_iff, mem_hitIndices_iff]
  refine and_congr_right fun _ => ⟨fun hleast j hj => ?_, fun hfirst j hj => ?_⟩
  · rw [Bool.eq_false_iff]
    exact fun hhit => (hleast j (mem_hitIndices_iff.2 hhit)).not_gt hj
  · by_contra hlt
    cases (hfirst j (by omega)).symm.trans (mem_hitIndices_iff.1 hj)

/-! ### The extractor -/

theorem mem_kinds_iff {e : Entry} {k : Kind} : k ∈ e.kinds ↔ e.has k = true := by
  simp [Entry.kinds, has_iff, eq_comm (a := k)]

/-- Settles O27, field by field. -/
theorem fieldsAreCutByKindWhateverTheSlot : Obligations.FieldsAreCutByKindWhateverTheSlot := by
  unfold Obligations.FieldsAreCutByKindWhateverTheSlot
  intro e w
  simp only [mem_kinds_iff]
  rw [Fields.mk.injEq]
  exact ⟨fieldsOf_x e w, fieldsOf_y e w, fieldsOf_n e w, fieldsOf_kk e w, fieldsOf_nnn e w⟩

end Sys2Proof
end

section
/-! The whole decode function (`40_decode_operation.md` R109 to R113): the `VF` restriction slot by slot,
the two causes of IllegalOpcode, and what a decoded result says of the word. -/

namespace Sys2Proof
open Machine

/-! ### The `VF` restriction -/

theorem exists_lt_three {p : Nat → Prop} : (∃ t < 3, p t) ↔ p 0 ∨ p 1 ∨ p 2 := by
  simp only [Nat.exists_lt_succ_right, Nat.not_lt_zero, false_and, exists_false, false_or,
    or_assoc]

theorem vfRefuses_iff {vr : VfReject} {i t : Nat} {r : Reg} :
    vfRefuses vr i t r = true ↔ (i, t) ∈ vr ∧ r = 15 := by
  simp [vfRefuses]

/-- A slot refuses a word where it is listed, is a register slot and holds 15 (R109). -/
theorem slotRejected_iff {vr : VfReject} {i t : Nat} {k : Kind} {w : Word} :
    slotRejected vr i t k w = true ↔
      (i, t) ∈ vr ∧ ((k = .regHi ∧ cutX w = 15) ∨ (k = .regLo ∧ cutY w = 15)) := by
  simp only [slotRejected, Bool.or_eq_true, Bool.and_eq_true, beq_iff_eq, vfRefuses_iff,
    and_or_left, and_left_comm]

/-- The restriction of an entry fires where that of one of its three slots does (R109). -/
theorem vfRejected_iff {vr : VfReject} {i : Nat} {e : Entry} {w : Word} :
    vfRejected vr i e w = true ↔ ∃ t < 3, (i, t) ∈ vr ∧
      ((e.kindAt t = .regHi ∧ cutX w = 15) ∨ (e.kindAt t = .regLo ∧ cutY w = 15)) := by
  simp only [exists_lt_three, vfRejected, Bool.or_eq_true, slotRejected_iff, or_assoc]
  rfl

/-- A slot refuses delivered operands where it is listed, is a register slot and its operand is 15
(R109). -/
theorem operandRejected_iff {vr : VfReject} {i t : Nat} {k : Kind} {f : Fields} :
    operandRejected vr i t k f = true ↔
      (i, t) ∈ vr ∧ ((k = .regHi ∧ f.x = some 15) ∨ (k = .regLo ∧ f.y = some 15)) := by
  have hany (o : Option Reg) : o.any (vfRefuses vr i t) = true ↔ (i, t) ∈ vr ∧ o = some 15 := by
    cases o <;> simp [vfRefuses_iff]
  simp only [operandRejected, Bool.or_eq_true, Bool.and_eq_true, beq_iff_eq, hany, and_or_left,
    and_left_comm]

/-- The restriction on delivered operands fires where that of one of the entry's slots does (R109). -/
theorem operandsRejected_iff {T : Table} {vr : VfReject} {i : Nat} {e : Entry} {f : Fields}
    (he : T[i]? = some e) : operandsRejected T vr i f = true ↔ ∃ t < 3, (i, t) ∈ vr ∧
      ((e.kindAt t = .regHi ∧ f.x = some 15) ∨ (e.kindAt t = .regLo ∧ f.y = some 15)) := by
  simp only [exists_lt_three, operandsRejected, he, Bool.or_eq_true, operandRejected_iff,
    or_assoc]
  rfl

/-! ### The decode of a winner -/

/-- The winner is delivered or rejected, and no other entry is looked at (R109, R110). -/
theorem decodeWith_winner {skip : Bool} {T : Table} {vr : VfReject} {w : Word} {i : Nat} {e : Entry}
    (hsel : sel skip T w = some i) (he : T[i]? = some e) : decodeWith skip T vr w =
      if vfRejected vr i e w then .illegalOpcode else .decoded i (fieldsOf e w) := by
  simp only [decodeWith, hsel, he]

/-- IllegalOpcode is the answer where nothing wins or the winner is rejected (R110, R111). -/
theorem decodeWith_eq_illegalOpcode_iff_sel {skip : Bool} {T : Table} {vr : VfReject} {w : Word} :
    decodeWith skip T vr w = .illegalOpcode ↔ sel skip T w = none ∨
      ∃ i e, sel skip T w = some i ∧ T[i]? = some e ∧ vfRejected vr i e w = true := by
  cases hsel : sel skip T w with
  | none => simp [decodeWith, hsel]
  | some i =>
    have he := List.getElem?_eq_getElem (sel_lt hsel)
    simp [decodeWith_winner hsel he, he]

/-- With `SKIP_PSEUDO` nothing wins exactly where no machine entry matches (R102, R111). -/
theorem sel_eq_none_iff_forall_mem {T : Table} {w : Word} :
    sel true T w = none ↔ ∀ e ∈ T, ¬ (e.cls = .machine ∧ w &&& e.mask = e.pattern) := by
  rw [sel_eq_none_iff]
  constructor
  · intro hnohit e he hmatch
    obtain ⟨i, hi⟩ := List.mem_iff_getElem?.1 he
    cases (hnohit i).symm.trans ((hitAt_some w hi).trans (hit_iff.2 hmatch))
  · intro hnomatch i
    rw [Bool.eq_false_iff]
    intro hhit
    obtain ⟨e, he, hcls, hmatch⟩ := hitAt_true_iff.1 hhit
    exact hnomatch e (List.mem_of_getElem? he) ⟨hcls, isMatch_iff.1 hmatch⟩

/-- Settles O28: the restriction decides on the winner alone, and the empty list refuses no slot. -/
theorem vfRestrictionRejectsTheWinnerWithoutBacktracking :
    Obligations.VfRestrictionRejectsTheWinnerWithoutBacktracking := by
  unfold Obligations.VfRestrictionRejectsTheWinnerWithoutBacktracking
  refine ⟨fun T vr w i e hsel he => ?_, fun T w => ?_⟩
  · rw [decodeWith_winner hsel he]
    exact ⟨fun hfires => if_pos (vfRejected_iff.2 hfires),
      fun hquiet => if_neg fun hrej => hquiet (vfRejected_iff.1 hrej)⟩
  · cases hsel : sel true T w with
    | none => exact decodeWith_nil_eq_illegalOpcode_iff.2 hsel
    | some i =>
      have he := List.getElem?_eq_getElem (sel_lt hsel)
      simp [decodeWith_winner hsel he, he, Config.vfRejectDefault]

/-- Settles O29: no winner is no match, and a winner is lost by the restriction only. -/
theorem illegalOpcodeArisesInExactlyTwoWays : Obligations.IllegalOpcodeArisesInExactlyTwoWays := by
  unfold Obligations.IllegalOpcodeArisesInExactlyTwoWays
  intro T vr w
  rw [decodeWith_eq_illegalOpcode_iff_sel, sel_eq_none_iff_forall_mem]

/-- The bits under a mask and those beside it make up the word. -/
theorem and_or_and_not (w m : Word) : w &&& m ||| w &&& ~~~m = w := by
  rw [← BitVec.and_or_distrib_left, BitVec.or_not_self]
  exact BitVec.and_allOnes

/-- Settles O30: the winner hits and is cut by kind, and encoding restores its opcode and field bits. -/
theorem decodedResultIsSound : Obligations.DecodedResultIsSound := by
  unfold Obligations.DecodedResultIsSound
  intro T vr w i f h
  obtain ⟨hsel, e, he, -, rfl⟩ := decodeWith_eq_decoded_iff.1 h
  obtain ⟨hcls, hmatch⟩ := winner_machine_match hsel he
  have hcut := fieldsAreCutByKindWhateverTheSlot e w
  refine ⟨e, he, hcls, hmatch, (sel_eq_some_iff.1 hsel).2, congrArg Fields.x hcut,
    congrArg Fields.y hcut, congrArg Fields.n hcut, congrArg Fields.kk hcut,
    congrArg Fields.nnn hcut, fun _ => ?_⟩
  rw [encodeFields_fieldsOf hmatch, and_or_and_not]

end Sys2Proof
end

section
/-! The decode of a word as a step and as an instruction of the default table
(`40_decode_operation.md` R109, R110; `20_memory.md` R52; `60_exceptions.md` R201). -/

namespace Sys2Proof.Machine

/-- A listed register operand is the operand of a register slot of the instruction's own row (R78). -/
theorem registerSlots_spec {i : Instr} {n t : Nat} {r : Reg}
    (h : (n, t, r) ∈ Expected.registerSlots i) : n = i.fmt ∧
      ∃ e, defaultTable[i.fmt]? = some e ∧ t < 3 ∧
        ((e.kindAt t = .regHi ∧ i.fields.x = some r) ∨ (e.kindAt t = .regLo ∧ i.fields.y = some r)) := by
  cases i with
  | cls | ret | sys | jp | call | ldI | jpV0 | db => cases h
  | seByte | sneByte | ldByte | addByte | rnd | skp | sknp | ldVxDt | ldVxK | ldVxInd | ldDtVx
  | ldStVx | addIVx | ldFVx | ldBVx | ldIndVx =>
    cases List.mem_singleton.1 h
    exact ⟨rfl, _, rfl, by decide, .inl ⟨rfl, rfl⟩⟩
  | seReg | ldReg | orReg | andReg | xorReg | addReg | subReg | shrReg | subnReg | shlReg | sneReg
  | drw =>
    obtain h | h := List.mem_pair.1 h
    · cases h
      exact ⟨rfl, _, rfl, by decide, .inl ⟨rfl, rfl⟩⟩
    · cases h
      exact ⟨rfl, _, rfl, by decide, .inr ⟨rfl, rfl⟩⟩

/-- A rejected delivery under the default table shows the outputs the document lists (R109, R201). -/
theorem deliver_of_rejected {s : State} {i : Nat} {f : Fields} (htab : s.table = defaultTable)
    (hrej : operandsRejected s.table s.vfReject i f = true) :
    deliver i f s = .next { s with out := Expected.illegal } := by
  rw [← raiseIllegalOpcode_of_defaultTable htab, deliver, if_pos hrej]

/-- Settles O11: the refused operand's slot makes the restriction of the instruction's row fire. -/
theorem refusedRegisterOperandIsIllegalOpcode :
    Obligations.RefusedRegisterOperandIsIllegalOpcode := by
  unfold Obligations.RefusedRegisterOperandIsIllegalOpcode
  rintro s i n t r htab hslot ⟨hlisted, rfl⟩
  have hdb : i.fmt ≠ 35 := by
    intro h35
    obtain ⟨kk, rfl⟩ := eq_db_of_fmt h35
    cases hslot
  obtain ⟨rfl, e, he, ht, hoperand⟩ := registerSlots_spec hslot
  rw [exec_eq_deliver i s hdb]
  refine deliver_of_rejected htab ?_
  rw [htab]
  exact (operandsRejected_iff he).2 ⟨t, ht, hlisted, hoperand⟩

/-- Settles O2: presenting takes the waiting word, or holds the one on the input, and the step answers
it. -/
theorem stepRunsTheDecodedInstruction : Obligations.StepRunsTheDecodedInstruction := by
  unfold Obligations.StepRunsTheDecodedInstruction
  intro s hrun htab
  have hsome {p : State} (hp : s.present = p) {i : Instr} (hi : decodeWord p.wordI = some i) :
      step s = exec i p := by
    subst hp
    exact step_of_decodeWord_some hrun htab hi
  have hnone {p : State} (hp : s.present = p) (hi : decodeWord p.wordI = none) :
      step s = .next { p with out := Expected.illegal } := by
    subst hp
    rw [step_of_decodeWord_none hrun htab hi,
      raiseIllegalOpcode_of_defaultTable ((present_table s).trans htab)]
  exact ⟨fun w ws i hq => hsome (present_cons hq), fun w ws hq => hnone (present_cons hq),
    fun i hq => hsome (present_nil hq), fun hq => hnone (present_nil hq)⟩

end Sys2Proof.Machine
end

section
/-! The flow formats and LD I (`41_flow_formats.md` R130 to R135, `44_index_draw_key_formats.md` R165):
formats without a register operand, as instructions and word by word. What is said here of a delivery that
is not refused, and of the words of a row, holds for the formats with registers too. -/

namespace Sys2Proof.Machine

/-! ### Delivery -/

/-- The restriction is on registers: fields without one are never refused (R109). -/
theorem operandsRejected_of_no_register {T : Table} {vr : VfReject} {i : Nat} {f : Fields}
    (hx : f.x = none) (hy : f.y = none) : operandsRejected T vr i f = false := by
  cases he : T[i]? with
  | none => simp [operandsRejected, he]
  | some e =>
    rw [← Bool.not_eq_true, operandsRejected_iff he]
    simp [hx, hy]

/-- An instruction whose operands are not refused shows its row's format and its own operands, and
nothing else changes (R110, R33). -/
theorem exec_of_not_rejected {i : Instr} {s : State} (htab : s.table = defaultTable)
    (hdb : i.fmt ≠ 35) (hrej : operandsRejected s.table s.vfReject i.fmt i.fields = false) :
    exec i s = .next { s with out := Ports.ofResult defaultTable (.decoded i.fmt i.fields) } := by
  rw [exec_eq_deliver i s hdb, deliver, hrej, ← htab]
  rfl

/-- An instruction without a register operand always shows its format and operands. -/
theorem exec_of_no_register {i : Instr} {s : State} (htab : s.table = defaultTable)
    (hdb : i.fmt ≠ 35) (hx : i.fields.x = none) (hy : i.fields.y = none) :
    exec i s = .next { s with out := Ports.ofResult defaultTable (.decoded i.fmt i.fields) } :=
  exec_of_not_rejected htab hdb (operandsRejected_of_no_register hx hy)

/-- Settles O4: CLS and RET have no operand, so nothing can refuse them. -/
theorem clsAndRetDeliverTheirFormatAlone : Obligations.ClsAndRetDeliverTheirFormatAlone := by
  unfold Obligations.ClsAndRetDeliverTheirFormatAlone
  intro s htab
  exact ⟨exec_of_no_register htab (by decide) rfl rfl, exec_of_no_register htab (by decide) rfl rfl⟩

/-- Settles O5: the five address formats have no register operand, so nothing can refuse them. -/
theorem addressFormatsDeliverTheAddress : Obligations.AddressFormatsDeliverTheAddress := by
  unfold Obligations.AddressFormatsDeliverTheAddress
  intro s a htab
  refine ⟨?sys, ?jp, ?call, ?ldI, ?jpV0⟩
  all_goals exact exec_of_no_register htab (by simp [Instr.fmt]) rfl rfl

end Sys2Proof.Machine

namespace Sys2Proof
open Expected Machine

/-! ### Words -/

/-- A machine row wins the words it matches, but for SYS on the words of CLS and RET (R74, R80). -/
theorem sel_row_iff {i : Nat} {e : Entry} {w : Word} (he : defaultTable[i]? = some e)
    (hcls : e.cls = .machine) : sel true defaultTable w = some i ↔
      w &&& e.mask = e.pattern ∧ ¬ (i = 2 ∧ (w = 0x00E0 ∨ w = 0x00EE)) := by
  have hhit : hitAt true defaultTable i w = true ↔ w &&& e.mask = e.pattern := by
    simp [hitAt_some w he, hit_iff, hcls]
  constructor
  · intro hsel
    have hi := (sel_eq_some_iff.1 hsel).1
    exact ⟨hhit.1 hi, (sel_eq_some_iff_of_hitAt hi).1 hsel⟩
  · rintro ⟨hmatch, hsys⟩
    exact (sel_eq_some_iff_of_hitAt (hhit.2 hmatch)).2 hsys

/-- A word decodes to an entry, with the fields the entry cuts, where the entry wins it and is not
rejected (R110). -/
theorem decodeWith_eq_row_iff {skip : Bool} {T : Table} {vr : VfReject} {i : Nat} {e : Entry}
    {w : Word} (he : T[i]? = some e) : decodeWith skip T vr w = .decoded i (fieldsOf e w) ↔
      sel skip T w = some i ∧ vfRejected vr i e w = false := by
  rw [decodeWith_eq_decoded_iff]
  simp [he]

section
variable {i : Nat} {e : Entry} {w : Word} (vr : VfReject) (he : defaultTable[i]? = some e)
  (hcls : e.cls = .machine) (hx : (fieldsOf e w).x = none) (hy : (fieldsOf e w).y = none)
include he hcls hx hy

/-- A word decodes to a machine row without a register field exactly where the row wins it, whatever
`VF_REJECT`. -/
theorem row_iff_decodeWith_of_no_register :
    (w &&& e.mask = e.pattern ∧ ¬ (i = 2 ∧ (w = 0x00E0 ∨ w = 0x00EE))) ↔
      decodeWith true defaultTable vr w = .decoded i (fieldsOf e w) := by
  rw [decodeWith_eq_row_iff he, sel_row_iff he hcls, ← operandsRejected_fieldsOf he vr w,
    operandsRejected_of_no_register hx hy]
  simp

/-- A row without a register field that tests the whole word is decoded from its pattern alone. -/
theorem eq_pattern_iff_decodeWith (hmask : e.mask = 0xFFFF) (hi : i ≠ 2) :
    w = e.pattern ↔ decodeWith true defaultTable vr w = .decoded i (fieldsOf e w) := by
  rw [← row_iff_decodeWith_of_no_register vr he hcls hx hy, hmask]
  simp [hi, and_FFFF]

/-- A row without a register field that tests the opcode nibble is decoded from the words of its
nibble. -/
theorem top_iff_decodeWith (hmask : e.mask = 0xF000) (hpattern : e.pattern.toNat % 4096 = 0)
    (hi : i ≠ 2) : top w = e.pattern.toNat / 4096 ↔
      decodeWith true defaultTable vr w = .decoded i (fieldsOf e w) := by
  rw [← row_iff_decodeWith_of_no_register vr he hcls hx hy, hmask]
  simp [hi, and_F000_eq_iff, hpattern]

end

/-- The SYS row is decoded from the words of nibble 0 that are not CLS or RET (R132). -/
theorem sys_iff_decodeWith (vr : VfReject) (w : Word) :
    (top w = 0 ∧ w ≠ 0x00E0 ∧ w ≠ 0x00EE) ↔
      decodeWith true defaultTable vr w = .decoded 2 { nnn := some (cutNNN w) } := by
  refine Iff.trans ?_ (row_iff_decodeWith_of_no_register (i := 2) vr rfl rfl rfl rfl)
  simp [and_F000_eq_iff]

/-- Settles O42: a flow format has no register field, so its words are those its row wins. -/
theorem flowWordsDecodeByTheirRules : Obligations.FlowWordsDecodeByTheirRules := by
  unfold Obligations.FlowWordsDecodeByTheirRules
  intro vr w
  exact ⟨eq_pattern_iff_decodeWith (i := 0) vr rfl rfl rfl rfl rfl (by decide),
    eq_pattern_iff_decodeWith (i := 1) vr rfl rfl rfl rfl rfl (by decide),
    sys_iff_decodeWith vr w,
    top_iff_decodeWith (i := 3) vr rfl rfl rfl rfl rfl rfl (by decide),
    top_iff_decodeWith (i := 4) vr rfl rfl rfl rfl rfl rfl (by decide),
    top_iff_decodeWith (i := 21) vr rfl rfl rfl rfl rfl rfl (by decide)⟩

end Sys2Proof
end

section
/-! The register and byte formats (`42_reg_imm_formats.md` R140 to R144), as instructions and word by
word. They have one register slot; what is said here of an entry with one register slot holds wherever
that slot is, and whatever stands in the others. -/

namespace Sys2Proof
open Expected Machine

/-! ### Entries with one register slot -/

/-- Slot `t` of an entry is `REG_HI`, and no other slot holds a register (R63, R64). -/
abbrev Entry.soleRegister (e : Entry) (t : Nat) : Prop :=
  t < 3 ∧ ∀ u < 3, e.kindAt u ≠ .regLo ∧ (e.kindAt u = .regHi ↔ u = t)

theorem fieldsOf_x_of_soleRegister {e : Entry} {t : Nat} (hreg : e.soleRegister t) (w : Word) :
    (fieldsOf e w).x = some (cutX w) := by
  obtain ⟨ht, hkinds⟩ := hreg
  have hslot : ∃ u < 3, e.kindAt u = .regHi := ⟨t, ht, (hkinds t ht).2.2 rfl⟩
  rw [fieldsOf_x, if_pos (has_iff.2 (exists_lt_three.1 hslot))]

/-- With one register slot, the restriction on delivered operands is that slot's (R109). -/
theorem operandsRejected_iff_refused {T : Table} {vr : VfReject} {i t : Nat} {e : Entry} {f : Fields}
    {r : Reg} (he : T[i]? = some e) (hreg : e.soleRegister t) (hx : f.x = some r) :
    operandsRejected T vr i f = true ↔ refused vr i t r := by
  obtain ⟨ht, hkinds⟩ := hreg
  rw [operandsRejected_iff he, hx, Option.some_inj]
  constructor
  · rintro ⟨u, hu, hlisted, ⟨hhi, hr⟩ | ⟨hlo, -⟩⟩
    · obtain rfl := (hkinds u hu).2.1 hhi
      exact ⟨hlisted, hr⟩
    · exact absurd hlo (hkinds u hu).1
  · rintro ⟨hlisted, hr⟩
    exact ⟨t, ht, hlisted, .inl ⟨(hkinds t ht).2.2 rfl, hr⟩⟩

/-! ### Delivery -/

/-- An instruction with one register slot shows its row's format and its own operands where the slot does
not refuse the register, and nothing else changes (R109, R110, R33). -/
theorem exec_of_not_refused {i : Instr} {s : State} {t : Nat} {e : Entry} {r : Reg}
    (htab : s.table = defaultTable) (he : defaultTable[i.fmt]? = some e) (hreg : e.soleRegister t)
    (hx : i.fields.x = some r) (hok : ¬ refused s.vfReject i.fmt t r) :
    exec i s = .next { s with out := Ports.ofResult defaultTable (.decoded i.fmt i.fields) } := by
  have hdb : i.fmt ≠ 35 := by
    intro h35
    obtain ⟨kk, rfl⟩ := eq_db_of_fmt h35
    cases hx
  refine exec_of_not_rejected htab hdb ?_
  rwa [htab, ← Bool.not_eq_true, operandsRejected_iff_refused he hreg hx]

/-- Settles O6: each of the five rows has its register in slot 0 and no other register. -/
theorem registerByteFormatsDeliverRegisterAndByte :
    Obligations.RegisterByteFormatsDeliverRegisterAndByte := by
  unfold Obligations.RegisterByteFormatsDeliverRegisterAndByte
  intro s r k htab
  refine ⟨?seByte, ?sneByte, ?ldByte, ?addByte, ?rnd⟩
  all_goals exact fun hok => exec_of_not_refused (t := 0) htab rfl (by decide) rfl hok

/-! ### Words -/

section
variable {i t : Nat} {e : Entry} {w : Word} (vr : VfReject) (he : defaultTable[i]? = some e)
  (hcls : e.cls = .machine) (hreg : e.soleRegister t) (hi : i ≠ 2)
include he hcls hreg hi

/-- A word decodes to a machine row with one register slot exactly where it matches the row and the slot
does not refuse its register. -/
theorem row_iff_decodeWith_of_soleRegister :
    (w &&& e.mask = e.pattern ∧ ¬ refused vr i t (cutX w)) ↔
      decodeWith true defaultTable vr w = .decoded i (fieldsOf e w) := by
  rw [decodeWith_eq_row_iff he, sel_row_iff he hcls, ← operandsRejected_fieldsOf he vr w,
    ← Bool.not_eq_true,
    operandsRejected_iff_refused he hreg (fieldsOf_x_of_soleRegister hreg w)]
  simp [hi]

/-- A row with one register slot that tests the opcode nibble is decoded from the words of its nibble
whose register the slot does not refuse. -/
theorem top_iff_decodeWith_of_soleRegister (hmask : e.mask = 0xF000)
    (hpattern : e.pattern.toNat % 4096 = 0) :
    (top w = e.pattern.toNat / 4096 ∧ ¬ refused vr i t (cutX w)) ↔
      decodeWith true defaultTable vr w = .decoded i (fieldsOf e w) := by
  rw [← row_iff_decodeWith_of_soleRegister vr he hcls hreg hi, hmask]
  simp [and_F000_eq_iff, hpattern]

end

/-- Settles O43: each of the five rows tests the opcode nibble and has its one register in slot 0. -/
theorem registerByteWordsDecodeByTheirRules : Obligations.RegisterByteWordsDecodeByTheirRules := by
  unfold Obligations.RegisterByteWordsDecodeByTheirRules
  intro vr w
  exact ⟨top_iff_decodeWith_of_soleRegister (i := 5) (t := 0) vr rfl rfl (by decide) (by decide) rfl rfl,
    top_iff_decodeWith_of_soleRegister (i := 6) (t := 0) vr rfl rfl (by decide) (by decide) rfl rfl,
    top_iff_decodeWith_of_soleRegister (i := 8) (t := 0) vr rfl rfl (by decide) (by decide) rfl rfl,
    top_iff_decodeWith_of_soleRegister (i := 9) (t := 0) vr rfl rfl (by decide) (by decide) rfl rfl,
    top_iff_decodeWith_of_soleRegister (i := 22) (t := 0) vr rfl rfl (by decide) (by decide) rfl rfl⟩

end Sys2Proof
end

section
/-! The two-register formats (`43_reg_reg_formats.md` R150 to R160), as instructions and word by word. What
is said here of an entry with a register in slot 0 and one in slot 1 holds whatever else stands in slot 2. -/

namespace Sys2Proof
open Expected Machine

/-! ### Entries with two register slots -/

/-- Slot 0 of an entry is `REG_HI`, slot 1 is `REG_LO`, and slot 2 holds no register (R63, R64). -/
abbrev Entry.registerPair (e : Entry) : Prop :=
  e.kind0 = .regHi ∧ e.kind1 = .regLo ∧ e.kind2 ≠ .regHi ∧ e.kind2 ≠ .regLo

theorem fieldsOf_x_of_registerPair {e : Entry} (hpair : e.registerPair) (w : Word) :
    (fieldsOf e w).x = some (cutX w) := by
  obtain ⟨hhi, -⟩ := hpair
  rw [fieldsOf_x, if_pos (has_iff.2 (.inl hhi))]

theorem fieldsOf_y_of_registerPair {e : Entry} (hpair : e.registerPair) (w : Word) :
    (fieldsOf e w).y = some (cutY w) := by
  obtain ⟨-, hlo, -⟩ := hpair
  rw [fieldsOf_y, if_pos (has_iff.2 (.inr (.inl hlo)))]

/-- An entry with two register slots and an empty third one yields the two registers and nothing else
(R107). -/
theorem fieldsOf_of_registerPair {e : Entry} (hpair : e.registerPair) (hempty : e.kind2 = .none)
    (w : Word) : fieldsOf e w = { x := some (cutX w), y := some (cutY w) } := by
  obtain ⟨hhi, hlo, -⟩ := hpair
  rw [fieldsOf, hhi, hlo, hempty]
  rfl

/-- With a register in slot 0 and one in slot 1, the restriction on delivered operands is that of either
slot on its own register (R109). -/
theorem operandsRejected_iff_refused_or {T : Table} {vr : VfReject} {i : Nat} {e : Entry} {f : Fields}
    {r q : Reg} (he : T[i]? = some e) (hpair : e.registerPair) (hx : f.x = some r)
    (hy : f.y = some q) :
    operandsRejected T vr i f = true ↔ refused vr i 0 r ∨ refused vr i 1 q := by
  obtain ⟨hhi, hlo, hnohi, hnolo⟩ := hpair
  rw [operandsRejected_iff he, exists_lt_three]
  simp [Entry.kindAt, refused, hhi, hlo, hnohi, hnolo, hx, hy]

/-- The restriction on delivered operands is quiet where neither slot refuses its register (R109). -/
theorem operandsRejected_eq_false_iff_not_refused {T : Table} {vr : VfReject} {i : Nat} {e : Entry}
    {f : Fields} {r q : Reg} (he : T[i]? = some e) (hpair : e.registerPair) (hx : f.x = some r)
    (hy : f.y = some q) :
    operandsRejected T vr i f = false ↔ ¬ refused vr i 0 r ∧ ¬ refused vr i 1 q := by
  rw [← Bool.not_eq_true, operandsRejected_iff_refused_or he hpair hx hy, not_or]

/-! ### Delivery -/

/-- An instruction with two register slots shows its row's format and its own operands where neither slot
refuses its register, and nothing else changes (R109, R110, R33). -/
theorem exec_of_neither_refused {i : Instr} {s : State} {e : Entry} {r q : Reg}
    (htab : s.table = defaultTable) (he : defaultTable[i.fmt]? = some e) (hpair : e.registerPair)
    (hx : i.fields.x = some r) (hy : i.fields.y = some q)
    (hok : ¬ refused s.vfReject i.fmt 0 r ∧ ¬ refused s.vfReject i.fmt 1 q) :
    exec i s = .next { s with out := Ports.ofResult defaultTable (.decoded i.fmt i.fields) } := by
  have hdb : i.fmt ≠ 35 := by
    intro h35
    obtain ⟨kk, rfl⟩ := eq_db_of_fmt h35
    cases hx
  refine exec_of_not_rejected htab hdb ?_
  rwa [htab, operandsRejected_eq_false_iff_not_refused he hpair hx hy]

/-- Settles O7: each of the eleven rows has one register in slot 0 and the other in slot 1. -/
theorem registerRegisterFormatsDeliverBothRegisters :
    Obligations.RegisterRegisterFormatsDeliverBothRegisters := by
  unfold Obligations.RegisterRegisterFormatsDeliverBothRegisters
  intro s r q htab ok
  refine ⟨?seReg, ?ldReg, ?orReg, ?andReg, ?xorReg, ?addReg, ?subReg, ?shrReg, ?subnReg, ?shlReg,
    ?sneReg⟩
  all_goals exact fun hok => exec_of_neither_refused htab rfl (by decide) rfl rfl hok

/-! ### Words -/

section
variable {i : Nat} {e : Entry} {w : Word} (vr : VfReject) (he : defaultTable[i]? = some e)
  (hcls : e.cls = .machine) (hpair : e.registerPair) (hi : i ≠ 2)
include he hcls hpair hi

/-- A word decodes to a machine row with two register slots exactly where it matches the row and neither
slot refuses its register. -/
theorem row_iff_decodeWith_of_registerPair :
    (w &&& e.mask = e.pattern ∧ ¬ refused vr i 0 (cutX w) ∧ ¬ refused vr i 1 (cutY w)) ↔
      decodeWith true defaultTable vr w = .decoded i (fieldsOf e w) := by
  rw [decodeWith_eq_row_iff he, sel_row_iff he hcls, ← operandsRejected_fieldsOf he vr w,
    operandsRejected_eq_false_iff_not_refused he hpair (fieldsOf_x_of_registerPair hpair w)
      (fieldsOf_y_of_registerPair hpair w)]
  simp [hi]

/-- A row of two registers and nothing else that tests the high and the low nibble is decoded from the
words with these nibbles whose registers neither slot refuses. -/
theorem nibbles_iff_decodeWith_of_registerPair {highNibble lowNibble : Nat} (hempty : e.kind2 = .none)
    (hmask : e.mask = 0xF00F) (htop : e.pattern.toNat / 4096 = highNibble)
    (hlow : e.pattern.toNat % 4096 = lowNibble) :
    (top w = highNibble ∧ w.toNat % 16 = lowNibble
        ∧ ¬ refused vr i 0 (cutX w) ∧ ¬ refused vr i 1 (cutY w)) ↔
      decodeWith true defaultTable vr w = .decoded i { x := some (cutX w), y := some (cutY w) } := by
  rw [← fieldsOf_of_registerPair hpair hempty,
    ← row_iff_decodeWith_of_registerPair vr he hcls hpair hi, hmask, BitVec.ofNat_eq_ofNat,
    and_F00F_eq_iff, htop, hlow, and_assoc]

end

/-- Settles O44: each of the eleven rows tests the high and the low nibble, and has one register in slot 0,
the other in slot 1 and nothing in slot 2. -/
theorem registerRegisterWordsDecodeByTheirRules :
    Obligations.RegisterRegisterWordsDecodeByTheirRules := by
  unfold Obligations.RegisterRegisterWordsDecodeByTheirRules
  intro vr w d f ok
  simp only [List.forall_mem_cons]
  refine ⟨?seReg, ?ldReg, ?orReg, ?andReg, ?xorReg, ?addReg, ?subReg, ?shrReg, ?subnReg, ?shlReg,
    ?sneReg, List.forall_mem_nil _⟩
  all_goals
    exact nibbles_iff_decodeWith_of_registerPair vr rfl rfl (by decide) (by decide) rfl rfl rfl rfl

end Sys2Proof
end

section
/-! LD I, DRW, SKP and SKNP (`44_index_draw_key_formats.md` R165 to R168), as instructions and word by word,
and the delivery of the keyword formats (`45_fx_keyword_formats.md` R175 to R183), which like SKP and SKNP
have one register slot. What is said here of a row that tests the low byte holds for the keyword formats
too. -/

namespace Sys2Proof
open Expected Machine

/-! ### Delivery -/

/-- Settles O8: the row has one register in slot 0 and the other in slot 1; the nibble in slot 2 is no
register. -/
theorem drwDeliversBothRegistersAndNibble : Obligations.DrwDeliversBothRegistersAndNibble := by
  unfold Obligations.DrwDeliversBothRegistersAndNibble
  intro s r q n htab hr hq
  exact exec_of_neither_refused htab rfl (by decide) rfl rfl ⟨hr, hq⟩

/-- Settles O9: each of the eleven rows has no register but the one in slot 0, or the one in slot 1. -/
theorem singleRegisterFormatsDeliverTheRegister :
    Obligations.SingleRegisterFormatsDeliverTheRegister := by
  unfold Obligations.SingleRegisterFormatsDeliverTheRegister
  intro s r htab
  refine ⟨?skp, ?sknp, ?ldVxDt, ?ldVxK, ?ldDtVx, ?ldStVx, ?addIVx, ?ldFVx, ?ldBVx, ?ldIndVx, ?ldVxInd⟩
  case skp | sknp | ldVxDt | ldVxK | ldVxInd =>
    exact fun hok => exec_of_not_refused (t := 0) htab rfl (by decide) rfl hok
  case ldDtVx | ldStVx | addIVx | ldFVx | ldBVx | ldIndVx =>
    exact fun hok => exec_of_not_refused (t := 1) htab rfl (by decide) rfl hok

/-! ### Words -/

section
variable {i : Nat} {e : Entry} {w : Word} (vr : VfReject) (he : defaultTable[i]? = some e)
  (hcls : e.cls = .machine) (hi : i ≠ 2)
include he hcls hi

/-- A row with two register slots that tests the opcode nibble is decoded from the words of its nibble
whose registers neither slot refuses. -/
theorem top_iff_decodeWith_of_registerPair (hpair : e.registerPair) (hmask : e.mask = 0xF000)
    (hpattern : e.pattern.toNat % 4096 = 0) :
    (top w = e.pattern.toNat / 4096 ∧ ¬ refused vr i 0 (cutX w) ∧ ¬ refused vr i 1 (cutY w)) ↔
      decodeWith true defaultTable vr w = .decoded i (fieldsOf e w) := by
  rw [← row_iff_decodeWith_of_registerPair vr he hcls hpair hi, hmask]
  simp [and_F000_eq_iff, hpattern]

/-- A row with one register slot that tests the opcode nibble and the low byte is decoded from the words
with these whose register the slot does not refuse. -/
theorem lowByte_iff_decodeWith_of_soleRegister {t highNibble lowByte : Nat} (hreg : e.soleRegister t)
    (hmask : e.mask = 0xF0FF) (htop : e.pattern.toNat / 4096 = highNibble)
    (hlow : e.pattern.toNat % 4096 = lowByte) :
    (top w = highNibble ∧ low w = lowByte ∧ ¬ refused vr i t (cutX w)) ↔
      decodeWith true defaultTable vr w = .decoded i (fieldsOf e w) := by
  rw [← row_iff_decodeWith_of_soleRegister vr he hcls hreg hi, hmask, BitVec.ofNat_eq_ofNat,
    and_F0FF_eq_iff, htop, hlow, and_assoc]

end

/-- Settles O45: LD I and DRW test the opcode nibble, SKP and SKNP the low byte too; LD I has no register
slot, DRW has slots 0 and 1, SKP and SKNP have slot 0. -/
theorem indexDrawKeyWordsDecodeByTheirRules : Obligations.IndexDrawKeyWordsDecodeByTheirRules := by
  unfold Obligations.IndexDrawKeyWordsDecodeByTheirRules
  intro vr w
  exact ⟨top_iff_decodeWith (i := 20) vr rfl rfl rfl rfl rfl rfl (by decide),
    top_iff_decodeWith_of_registerPair (i := 23) vr rfl rfl (by decide) (by decide) rfl rfl,
    lowByte_iff_decodeWith_of_soleRegister (i := 24) vr rfl rfl (by decide) (by decide) rfl rfl rfl,
    lowByte_iff_decodeWith_of_soleRegister (i := 25) vr rfl rfl (by decide) (by decide) rfl rfl rfl⟩

end Sys2Proof
end

section
/-! The keyword formats (`45_fx_keyword_formats.md` R175 to R183), word by word. A keyword takes no bit of
the word (R68), so their one register is the only field, whichever slot it stands in. -/

namespace Sys2Proof
open Expected

/-- A row that tests the opcode nibble and the low byte and yields its one register alone is decoded, with
that register, from the words with these whose register the slot does not refuse. -/
theorem lowByte_iff_decodeWith_register {i t highNibble lowByte : Nat} {e : Entry} {w : Word}
    (vr : VfReject) (he : defaultTable[i]? = some e) (hcls : e.cls = .machine) (hi : i ≠ 2)
    (hreg : e.soleRegister t) (halone : fieldsOf e w = { x := some (cutX w) })
    (hmask : e.mask = 0xF0FF) (htop : e.pattern.toNat / 4096 = highNibble)
    (hlow : e.pattern.toNat % 4096 = lowByte) :
    (top w = highNibble ∧ low w = lowByte ∧ ¬ refused vr i t (cutX w)) ↔
      decodeWith true defaultTable vr w = .decoded i { x := some (cutX w) } := by
  rw [← halone]
  exact lowByte_iff_decodeWith_of_soleRegister vr he hcls hi hreg hmask htop hlow

/-- Settles O46: each of the nine rows tests the opcode nibble and the low byte, and has no register but
the one in slot 0, or the one in slot 1. -/
theorem keywordWordsDecodeByTheirRules : Obligations.KeywordWordsDecodeByTheirRules := by
  unfold Obligations.KeywordWordsDecodeByTheirRules
  intro vr w
  simp only [List.forall_mem_cons]
  refine ⟨?ldVxDt, ?ldVxK, ?ldDtVx, ?ldStVx, ?addIVx, ?ldFVx, ?ldBVx, ?ldIndVx, ?ldVxInd,
    List.forall_mem_nil _⟩
  case ldVxDt | ldVxK | ldVxInd =>
    exact lowByte_iff_decodeWith_register (t := 0) vr rfl rfl (by decide) (by decide) rfl rfl rfl rfl
  case ldDtVx | ldStVx | addIVx | ldFVx | ldBVx | ldIndVx =>
    exact lowByte_iff_decodeWith_register (t := 1) vr rfl rfl (by decide) (by decide) rfl rfl rfl rfl

end Sys2Proof
end

section
/-! The pseudo-directive DB (`46_pseudo_db.md` R190). -/

namespace Sys2Proof
open Machine

/-- The pseudo-directive's row hits no word (R102). -/
theorem hitAt_db_eq_false (w : Word) : hitAt true defaultTable 35 w = false :=
  Bool.eq_false_iff.2 fun h => ne_35_of_hitAt h rfl

/-- A word decodes to an instruction of a row that hits it, so never to `DB` (R190). -/
theorem fmt_ne_35_of_decodeWord {w : Word} {i : Instr} (h : decodeWord w = some i) : i.fmt ≠ 35 :=
  ne_35_of_hitAt (sel_eq_some_iff.1 (winner_of_decodeWord h).1).1

/-- CLS and RET win their own word, and SYS every other word it hits (R74, R80). -/
theorem sel_of_hitAt_sys {w : Word} (h : hitAt true defaultTable 2 w = true) :
    sel true defaultTable w =
      if w = 0x00E0 then some 0 else if w = 0x00EE then some 1 else some 2 := by
  split_ifs with hcls hret
  · exact (sel_eq_some_iff_of_hitAt (hitAt_cls_iff.2 hcls)).2 (by simp)
  · exact (sel_eq_some_iff_of_hitAt (hitAt_ret_iff.2 hret)).2 (by simp)
  · exact (sel_eq_some_iff_of_hitAt h).2 fun ⟨_, hw⟩ => hw.elim hcls hret

/-- Settles O10: the winner is a row that hits, and SYS, which stands before `DB`'s row, hits every word
that row matches. -/
theorem dbIsNeverDecodedAndChangesNothing : Obligations.DbIsNeverDecodedAndChangesNothing := by
  unfold Obligations.DbIsNeverDecodedAndChangesNothing
  refine ⟨fun s k => ⟨exec_db k s, rfl⟩,
    fun w => ⟨hitAt_db_eq_false w, fun k h => fmt_ne_35_of_decodeWord h rfl⟩, fun skip w hw => ?_⟩
  have hsel := sel_of_hitAt_sys (hitAt_sys_of_le hw)
  cases skip with
  | true => exact hsel
  | false => exact (sel_skip_defaultTable w).trans hsel

end Sys2Proof
end

section
/-! The whole step (`60_exceptions.md` R203; `70_reset_and_hazards.md` R230): what stops a machine, what it
answers, and the invariant of its outputs. -/

namespace Sys2Proof.Machine

/-- Outputs that are the decode of the word on the input are sound, whatever the table (R230, R32). -/
theorem sound_of_combinational {s : State} (h : s.combinational) : s.out.sound s.table.length := by
  rw [h]
  exact blockOutputs_sound _ _ _

/-- Settles O14: what a step leaves on the outputs is the decode of the word on the input, whatever stood
there before, and such outputs are sound. -/
theorem stepKeepsOutputsCombinationalAndSound :
    Obligations.StepKeepsOutputsCombinationalAndSound := by
  unfold Obligations.StepKeepsOutputsCombinationalAndSound
  intro s t _ hstep
  have hcomb : t.combinational := combinational_of_step_next hstep
  exact ⟨hcomb, sound_of_combinational hcomb⟩

/-- Settles O13: a running machine drives the decode of the word it presents, and presenting a word changes
neither the table nor `VF_REJECT`. -/
theorem stepIsTheWholeDecodeFunction : Obligations.StepIsTheWholeDecodeFunction := by
  unfold Obligations.StepIsTheWholeDecodeFunction
  intro s hrun
  rw [step_of_running hrun, ← present_table s]
  rfl

/-- The engine runs where it goes on after IllegalOpcode, or has been shown none (R203). -/
theorem running_iff {s : State} :
    s.running ↔ s.illegalResponse = .goOn ∨ s.out.illegalO = false := by
  rw [State.running, Bool.eq_false_iff, Ne, engineHalted_iff]
  cases s.illegalResponse <;> simp

/-- Settles O19: an engine that has halted faults at the first step of the run, and a running one answers
a next state. -/
theorem illegalOpcodeHaltsOrGoesOnByTheParameter :
    Obligations.IllegalOpcodeHaltsOrGoesOnByTheParameter := by
  unfold Obligations.IllegalOpcodeHaltsOrGoesOnByTheParameter
  refine ⟨fun s k hillegal hhalt => ?_, fun s h => exists_step_next_iff.2 (running_iff.2 h)⟩
  have hhalted : s.engineHalted = true := engineHalted_iff.2 ⟨hillegal, hhalt⟩
  exact run_succ_of_step_fault (M := core) (step_of_halted hhalted) k

end Sys2Proof.Machine
end
